-- ==== Sys2Proof/Word.lean ====
section
/-! DEFINITION. The data types of the KRY-AES256-CTR core: bytes, 32-bit register values, schedule
words, 16-byte blocks, the 32-byte key and the 60-word schedule (spec/00_scope.md R8, R10, R13). -/

namespace Sys2Proof

/-- R10: a byte is an unsigned 8-bit value. -/
abbrev Byte := BitVec 8

/-- R10, R52: a register value is an unsigned 32-bit value. -/
abbrev Word := BitVec 32

/-- R10: a key-schedule word is the four bytes `(a0, a1, a2, a3)`, index 0 first. -/
abbrev KWord := Vector Byte 4

/-- R10, R13: a block is 16 bytes; as a State matrix, byte index = 4·col + row. -/
abbrev Block := Vector Byte 16

/-- R22: the master key, 32 bytes, `KEY[0]` first. -/
abbrev Key := Vector Byte 32

/-- R28: the expanded key schedule `W[0..59]`. -/
abbrev Schedule := Vector KWord 60

/-- The block of sixteen zero bytes. -/
def zeroBlock : Block := Vector.replicate 16 0

/-- The all-zero key. -/
def zeroKey : Key := Vector.replicate 32 0

/-- The schedule of sixty zero words. -/
def zeroSchedule : Schedule := Vector.replicate 60 (Vector.replicate 4 0)

end Sys2Proof
end

