-- ==== Sys2Proof/Config.lean ====
section
/-! DEFINITION. What the platform fixes and what the spec leaves open: the OPEN parameters of
spec/00_scope.md R9 and the free value of spec/20_memory.md R60. An `opaque` constant has no body, so
every theorem holds for every value of it. -/

namespace Sys2Proof.Config

/-- R51: the register window is 0x400 bytes long. -/
def windowSize : Nat := 0x400

/-- R27: the constant the ID register reads. -/
def idValue : Word := 0x4B524131

/-- OPEN parameter `BASE` (R9, R51, U4) in units of the window size. Log entry 1. -/
opaque baseBlock : Nat

/-- R51: the bus address of the window, a multiple of 0x400. -/
def base : Nat := windowSize * baseBlock

/-- OPEN parameter `CMD_LATENCY` (R9, R33, R280, U2): the `n`-th draw. It is a natural number for every
`n`, so every accepted command completes (R281, U3). Log entries 2 and 3. -/
opaque cmdLatency : Nat → Nat

/-- The unspecified value of a data read while BUSY (R60, U1): the `n`-th draw. Log entry 4. -/
opaque busyRead : Nat → Word

end Sys2Proof.Config
end

