-- ==== Sys2Proof/Syntax.lean ====
section
/-! DEFINITION. The thirteen commands of spec/30_encoding.md R86, one constructor per row of
spec/opcode_table.json. -/

namespace Sys2Proof

/-- A command of the core with its operands (R80, R82 to R84, R90). No command has a register operand. -/
inductive Instr where
  /-- NOP, OP 0x00 (R230). -/
  | nop
  /-- EXPAND_KEY, OP 0x01 (R140). -/
  | expandKey
  /-- ENCRYPT, OP 0x02 (R170). -/
  | encrypt
  /-- CTR_KEYSTREAM [inc], OP 0x03 (R203). -/
  | ctrKeystream (inc : Bool)
  /-- CTR_XOR len [inc], OP 0x04 (R204). -/
  | ctrXor (len : BitVec 5) (inc : Bool)
  /-- LOAD_STATE, OP 0x05 (R171). -/
  | loadState
  /-- STORE_STATE, OP 0x06 (R172). -/
  | storeState
  /-- ADD_ROUND_KEY rnd, OP 0x07 (R173). -/
  | addRoundKey (rnd : BitVec 4)
  /-- SUB_BYTES, OP 0x08 (R174). -/
  | subBytes
  /-- SHIFT_ROWS, OP 0x09 (R175). -/
  | shiftRows
  /-- MIX_COLUMNS, OP 0x0A (R176). -/
  | mixColumns
  /-- CTR_LOAD_BLOCK, OP 0x0B (R205). -/
  | ctrLoadBlock
  /-- ZEROIZE, OP 0x0C (R231). -/
  | zeroize
  deriving DecidableEq, Repr

end Sys2Proof
end

