-- ==== Sys2Proof/WellFormed.lean ====
section
/-! DEFINITION. Which commands the encoding admits: the value constraints on RND and LEN of
spec/30_encoding.md R82, R83 and R86. -/

namespace Sys2Proof

/-- R82: a round-key index is legal when it names one of K0..K14. -/
def rndLegal (rnd : BitVec 4) : Bool := decide (rnd.toNat ≤ 14)

/-- R83: a byte count is legal from 1 to 16. -/
def lenLegal (len : BitVec 5) : Bool := decide (1 ≤ len.toNat ∧ len.toNat ≤ 16)

/-- R86: RND ≤ 14 for ADD_ROUND_KEY and 1 ≤ LEN ≤ 16 for CTR_XOR; every other command is well formed. -/
def Instr.wf : Instr → Bool
  | .addRoundKey rnd => rndLegal rnd
  | .ctrXor len _ => lenLegal len
  | .nop => true
  | .expandKey => true
  | .encrypt => true
  | .ctrKeystream _ => true
  | .loadState => true
  | .storeState => true
  | .subBytes => true
  | .shiftRows => true
  | .mixColumns => true
  | .ctrLoadBlock => true
  | .zeroize => true

end Sys2Proof
end

