-- ==== Sys2Proof/Decode.lean ====
section
/-! DEFINITION. The command word (spec/30_encoding.md R80 to R90): its fields, the match and mask of each
command, the decoder that is total on every 32-bit word and rejects by name, and the encoder. -/

namespace Sys2Proof

/-- The causes of a command error, spec/60_exceptions.md R241. -/
inductive CmdError where
  /-- OP is 0x0D..0xFF (R87). Raised by the decoder. -/
  | illegalOp
  /-- An assigned OP with a bit outside its fields set (R85). Raised by the decoder. -/
  | reservedBits
  /-- ADD_ROUND_KEY with RND = 15 (R82). -/
  | badRound
  /-- CTR_XOR with LEN = 0 or LEN > 16 (R83). -/
  | badLen
  /-- A schedule-using command while SCHED_VALID = 0 (R242). -/
  | noSchedule
  /-- A write other than to STATUS while a command is in flight (R60). -/
  | busy
  deriving DecidableEq, Repr

/-- R80, R81: OP = c[7:0]. -/
def opField (c : Word) : BitVec 8 := c.extractLsb' 0 8

/-- R80, R82: RND = c[11:8]. -/
def rndField (c : Word) : BitVec 4 := c.extractLsb' 8 4

/-- R80, R83: LEN = c[20:16]. -/
def lenField (c : Word) : BitVec 5 := c.extractLsb' 16 5

/-- R80, R84: INC = c[24]. -/
def incField (c : Word) : Bool := c.getLsbD 24

/-- The "match" column of R86; the opcode of the command, every other bit 0. -/
def Instr.matchWord : Instr → Word
  | .nop => 0x00000000
  | .expandKey => 0x00000001
  | .encrypt => 0x00000002
  | .ctrKeystream _ => 0x00000003
  | .ctrXor _ _ => 0x00000004
  | .loadState => 0x00000005
  | .storeState => 0x00000006
  | .addRoundKey _ => 0x00000007
  | .subBytes => 0x00000008
  | .shiftRows => 0x00000009
  | .mixColumns => 0x0000000A
  | .ctrLoadBlock => 0x0000000B
  | .zeroize => 0x0000000C

/-- The "mask" column of R86: 0 in the command's own fields, 1 in OP and every reserved bit. -/
def Instr.maskWord : Instr → Word
  | .nop => 0xFFFFFFFF
  | .expandKey => 0xFFFFFFFF
  | .encrypt => 0xFFFFFFFF
  | .ctrKeystream _ => 0xFEFFFFFF
  | .ctrXor _ _ => 0xFEE0FFFF
  | .loadState => 0xFFFFFFFF
  | .storeState => 0xFFFFFFFF
  | .addRoundKey _ => 0xFFFFF0FF
  | .subBytes => 0xFFFFFFFF
  | .shiftRows => 0xFFFFFFFF
  | .mixColumns => 0xFFFFFFFF
  | .ctrLoadBlock => 0xFFFFFFFF
  | .zeroize => 0xFFFFFFFF

/-- The "OP" column of R86: the command that OP selects, with its operand fields taken from `c` (R82 to
R84); `none` for the illegal opcodes 0x0D to 0xFF (R87). -/
def selectOp (c : Word) : Option Instr :=
  match (opField c).toNat with
  | 0x00 => some .nop
  | 0x01 => some .expandKey
  | 0x02 => some .encrypt
  | 0x03 => some (.ctrKeystream (incField c))
  | 0x04 => some (.ctrXor (lenField c) (incField c))
  | 0x05 => some .loadState
  | 0x06 => some .storeState
  | 0x07 => some (.addRoundKey (rndField c))
  | 0x08 => some .subBytes
  | 0x09 => some .shiftRows
  | 0x0A => some .mixColumns
  | 0x0B => some .ctrLoadBlock
  | 0x0C => some .zeroize
  | _ => none

/-- The value constraints of R82 and R83 as the error each raises (R241, codes 3 and 4). -/
def Instr.fieldError : Instr → Option CmdError
  | .addRoundKey rnd => if rndLegal rnd then none else some .badRound
  | .ctrXor len _ => if lenLegal len then none else some .badLen
  | .nop => none
  | .expandKey => none
  | .encrypt => none
  | .ctrKeystream _ => none
  | .loadState => none
  | .storeState => none
  | .subBytes => none
  | .shiftRows => none
  | .mixColumns => none
  | .ctrLoadBlock => none
  | .zeroize => none

/-- R89: the decoder, total on every word; the order of the checks is the error priority of R243. DEDUCED, log
entry 18: the reserved-bit check is `c & mask = match`, as R86 and R89 have it; the last sentence of R85 writes
`c & ~mask(OP)`, which contradicts them. -/
def decode (c : Word) : Except CmdError Instr :=
  match selectOp c with
  | none => .error .illegalOp
  | some i =>
    if c &&& i.maskWord = i.matchWord then
      match i.fieldError with
      | some e => .error e
      | none => .ok i
    else .error .reservedBits

/-- The operand fields of a command at their places in the word (R80); 0 where it has none. -/
def Instr.fieldWord : Instr → Word
  | .ctrKeystream inc => (BitVec.ofBool inc).setWidth 32 <<< 24
  | .ctrXor len inc => len.setWidth 32 <<< 16 ||| (BitVec.ofBool inc).setWidth 32 <<< 24
  | .addRoundKey rnd => rnd.setWidth 32 <<< 8
  | .nop => 0
  | .expandKey => 0
  | .encrypt => 0
  | .loadState => 0
  | .storeState => 0
  | .subBytes => 0
  | .shiftRows => 0
  | .mixColumns => 0
  | .ctrLoadBlock => 0
  | .zeroize => 0

/-- R80, R86, R93: the command word of a command: OP from R86, the fields at their places, all else 0. -/
def encode (i : Instr) : Word := i.matchWord ||| i.fieldWord

/-- The command the decoder reads from a table row's word `w` of `nbits` bits, numbered as
spec/opcode_table.json numbers them. A command is exactly one 32-bit word (R88): bits above `nbits` are 0. -/
def decodeTableWord (nbits w : Nat) : Option Instr :=
  match decode (BitVec.ofNat 32 (w % 2 ^ nbits)) with
  | .ok i => some i
  | .error _ => none

end Sys2Proof
end

