-- ==== Sys2Proof/Machine/State.lean ====
section
/-! DEFINITION. The architectural state of the core (spec/10_state.md R20, R33), the host's side of the bus
(spec/30_encoding.md R91) and the state after reset (R37, R270). -/

namespace Sys2Proof.Machine

/-- Why the machine stops. -/
inductive Fault where
  /-- A bus error response to one access that is not 32 bits wide or not 4-byte aligned (R53, R247, U7).
  Raised by `State.access`. The spec has a model treat it as a host fault. Safe: no register changes and the
  run ends there. Log entry 5. -/
  | busError
  deriving DecidableEq, Repr

/-- Why an instruction has no meaning. -/
inductive Refusal where
  /-- The instruction of the given mnemonic has no meaning yet. Raised by a refused arm of `exec` only; no
  arm of this model is one. Safe: the run stops. -/
  | notModelled (mnemonic : String)
  deriving DecidableEq, Repr

/-- R91: the kind of a bus access, with the data of a write. -/
inductive AccessKind where
  | read
  | write (data : Word)
  deriving DecidableEq, Repr

/-- One host access at an offset of the register window (R51: the core decodes `off[9:0]`), of `bits` bits
(R52, R53). -/
structure Access where
  kind : AccessKind
  bits : Nat
  off  : BitVec 10
  deriving DecidableEq, Repr

/-- What the world outside the core does next: one step each, a poll one step for each STATUS read. Log
entry 10. -/
inductive HostOp where
  /-- A bus access by offset: the "machine code" of R91. -/
  | access (a : Access)
  /-- A bus access by bus address; it reaches the core when it falls in the window at `BASE` (R51). -/
  | busAccess (kind : AccessKind) (bits : Nat) (addr : Nat)
  /-- The `poll` of R93: read STATUS again and again until the value read has BUSY = 0. -/
  | poll
  /-- The platform asserts and releases the reset input (R270, R272). -/
  | reset
  deriving DecidableEq, Repr

/-- What the bus answered to the host's last access. -/
inductive BusResp where
  /-- No access yet. -/
  | noAccess
  /-- A read returned `v`. -/
  | data (v : Word)
  /-- A write was performed (or dropped, R60: the bus does not tell). -/
  | done
  /-- The address lies outside the window, so the access did not reach the core (R51). Log entry 11. -/
  | notSelected
  deriving DecidableEq, Repr

/-- R33: the registers as they stood when a command was accepted. -/
structure Snapshot where
  key      : Key
  nonce    : Block
  din      : Block
  state    : Block
  w        : Schedule
  ctrIndex : Word
  deriving DecidableEq, Repr

/-- R33: an accepted command whose writes have not been applied yet. `cmd` is the accepted command word
`pending`, decoded (`encode cmd` is the word; log entry 16). It completes at the end of step number `stepsLeft + 1` from
here, so an acceptance with `CMD_LATENCY` = k + 1 starts at `stepsLeft` = k. -/
structure InFlight where
  cmd       : Instr
  snap      : Snapshot
  stepsLeft : Nat
  deriving DecidableEq, Repr

/-- R20: the core's architectural state; then the host's side of the bus; then the model's own fields. CMD
stores nothing (R32), ID is a constant (R27), and BUSY is `inflight` seen through STATUS (R31, R33). -/
structure State where
  /-- KEY (R22). -/
  key         : Key
  /-- NONCE (R23). -/
  nonce       : Block
  /-- DIN (R24). -/
  din         : Block
  /-- DOUT (R25). -/
  dout        : Block
  /-- STATE (R26). -/
  state       : Block
  /-- W (R28). -/
  w           : Schedule
  /-- CTR_INDEX (R30). -/
  ctrIndex    : Word
  /-- STATUS.SCHED_VALID (R29). -/
  schedValid  : Bool
  /-- STATUS.ERR (R31). -/
  err         : Bool
  /-- STATUS.ERRCODE (R31, R241). -/
  errCode     : BitVec 4
  /-- The in-flight command (R33), and with it STATUS.BUSY. -/
  inflight    : Option InFlight
  /-- The accesses the host performs next, first one first (R91). The host's, not the core's. -/
  host        : List HostOp
  /-- What the bus answered last (R58, R60). The host's, not the core's. -/
  resp        : BusResp
  /-- The `CMD_LATENCY` the next command draws (R33, R280, U2). The model's own free value. Log entry 2. -/
  nextLatency : Nat
  /-- How many free values have been drawn. The model's own. Log entries 2 and 4. -/
  draws       : Nat
  deriving DecidableEq, Repr

/-- R37, R270: the state after reset. The host has issued nothing yet; the first latency is a free value
(log entry 2). -/
def State.reset : State where
  key         := zeroKey
  nonce       := zeroBlock
  din         := zeroBlock
  dout        := zeroBlock
  state       := zeroBlock
  w           := zeroSchedule
  ctrIndex    := 0
  schedValid  := false
  err         := false
  errCode     := 0
  inflight    := none
  host        := []
  resp        := .noAccess
  nextLatency := Config.cmdLatency 0
  draws       := 1

end Sys2Proof.Machine
end

