-- ==== Sys2Proof/Machine/Operands.lean ====
section
/-! DEFINITION. The operand forms: byte lanes (spec/20_memory.md R54), the register map (R51, R55), and the
operands of a command word (spec/30_encoding.md R82 to R84, R90). -/

namespace Sys2Proof.Machine

/-! ### Byte lanes (R54) -/

/-- R54: four bytes as a register value, the byte of lowest index in bits [7:0]. -/
def pack (b0 b1 b2 b3 : Byte) : Word :=
  b0.setWidth 32 ||| b1.setWidth 32 <<< 8 ||| b2.setWidth 32 <<< 16 ||| b3.setWidth 32 <<< 24

/-- R54: byte lane `k` of a register value, bits [8k+7:8k]. -/
def lane (v : Word) (k : Nat) : Byte := v.extractLsb' (8 * k) 8

/-- R54: a schedule word as a register value, `W[i][0]` in bits [7:0]. -/
def packWord (a : KWord) : Word := pack a[0] a[1] a[2] a[3]

/-- R54: register word `j` of KEY. -/
def keyLane (k : Key) (j : Fin 8) : Word :=
  pack k[4 * j.val] k[4 * j.val + 1] k[4 * j.val + 2] k[4 * j.val + 3]

/-- R54: register word `j` of a 16-byte register. -/
def blockLane (b : Block) (j : Fin 4) : Word :=
  pack b[4 * j.val] b[4 * j.val + 1] b[4 * j.val + 2] b[4 * j.val + 3]

/-- R54, R58: `KEY[4j..4j+3] <- unpack(v)`. -/
def setKeyLane (k : Key) (j : Fin 8) (v : Word) : Key :=
  Vector.ofFn fun i => if i.val / 4 = j.val then lane v (i.val % 4) else k[i]

/-- R54, R58: `A[4j..4j+3] <- unpack(v)` for a 16-byte register A. -/
def setBlockLane (b : Block) (j : Fin 4) (v : Word) : Block :=
  Vector.ofFn fun i => if i.val / 4 = j.val then lane v (i.val % 4) else b[i]

/-! ### The register map (R51, R55) -/

/-- The registers of the window, under the names of R92; W is `w 0` .. `w 59`. -/
inductive Reg where
  | cmd
  | status
  | ctrIndex
  | id
  | key (j : Fin 8)
  | nonce (j : Fin 4)
  | din (j : Fin 4)
  | dout (j : Fin 4)
  | state (j : Fin 4)
  | w (i : Fin 60)
  deriving DecidableEq, Repr

/-- R55: the register at an offset; `none` for a reserved offset. Used for aligned offsets (R52). -/
def regAt (off : BitVec 10) : Option Reg :=
  let o := off.toNat
  if o < 0x010 then
    match o / 4 with
    | 0 => some .cmd
    | 1 => some .status
    | 2 => some .ctrIndex
    | _ => some .id
  else if o < 0x020 then none
  else if o < 0x040 then some (.key (Fin.ofNat 8 ((o - 0x020) / 4)))
  else if o < 0x050 then some (.nonce (Fin.ofNat 4 ((o - 0x040) / 4)))
  else if o < 0x060 then some (.din (Fin.ofNat 4 ((o - 0x050) / 4)))
  else if o < 0x070 then some (.dout (Fin.ofNat 4 ((o - 0x060) / 4)))
  else if o < 0x080 then some (.state (Fin.ofNat 4 ((o - 0x070) / 4)))
  else if o < 0x100 then none
  else if o < 0x1F0 then some (.w (Fin.ofNat 60 ((o - 0x100) / 4)))
  else none

/-- R55: the offset of a register. -/
def Reg.offset : Reg → BitVec 10
  | .cmd => 0x000
  | .status => 0x004
  | .ctrIndex => 0x008
  | .id => 0x00C
  | .key j => BitVec.ofNat 10 (0x020 + 4 * j.val)
  | .nonce j => BitVec.ofNat 10 (0x040 + 4 * j.val)
  | .din j => BitVec.ofNat 10 (0x050 + 4 * j.val)
  | .dout j => BitVec.ofNat 10 (0x060 + 4 * j.val)
  | .state j => BitVec.ofNat 10 (0x070 + 4 * j.val)
  | .w i => BitVec.ofNat 10 (0x100 + 4 * i.val)

/-- R51: the offset at which a bus address reaches the core; `none` outside the window. -/
def windowOffset (addr : Nat) : Option (BitVec 10) :=
  if Config.base ≤ addr ∧ addr < Config.base + Config.windowSize then
    some (BitVec.ofNat 10 (addr - Config.base))
  else none

/-- R60: what a read returns as usual while BUSY: STATUS, ID, CMD and the reserved offsets. -/
def readableWhileBusy : Option Reg → Bool
  | some .cmd => true
  | some .status => true
  | some .id => true
  | none => true
  | some .ctrIndex => false
  | some (.key _) => false
  | some (.nonce _) => false
  | some (.din _) => false
  | some (.dout _) => false
  | some (.state _) => false
  | some (.w _) => false

/-! ### Command operands (R82 to R84) -/

/-- R82: `r = zext(RND)` as the index of a round key; the same number for every legal RND (0..14). -/
def roundIndex (rnd : BitVec 4) : Fin 15 := Fin.ofNat 15 rnd.toNat

/-- R242: the four commands that read W and so need the key schedule. -/
def needsSchedule : Instr → Bool
  | .encrypt => true
  | .ctrKeystream _ => true
  | .ctrXor _ _ => true
  | .addRoundKey _ => true
  | .nop => false
  | .expandKey => false
  | .loadState => false
  | .storeState => false
  | .subBytes => false
  | .shiftRows => false
  | .mixColumns => false
  | .ctrLoadBlock => false
  | .zeroize => false

end Sys2Proof.Machine
end

