-- ==== Sys2Proof/Machine/Flags.lean ====
section
/-! DEFINITION. The status bits, the core's only flags (spec/10_state.md R31, R34), and the error codes
(spec/60_exceptions.md R241). No command sets a flag by its arithmetic (R34). -/

namespace Sys2Proof.Machine

/-- R241: the code of each error in STATUS.ERRCODE. -/
def errorCode : CmdError → BitVec 4
  | .illegalOp => 0x1
  | .reservedBits => 0x2
  | .badRound => 0x3
  | .badLen => 0x4
  | .noSchedule => 0x5
  | .busy => 0x6

/-- R31, R33: STATUS.BUSY is 1 while a command is in flight. -/
def State.busy (s : State) : Bool := s.inflight.isSome

/-- R31, R58: STATUS as the host reads it, `ERRCODE << 4 | ERR << 2 | SCHED_VALID << 1 | BUSY`; the reserved
bits read 0. -/
def State.statusWord (s : State) : Word :=
  s.errCode.setWidth 32 <<< 4 ||| (BitVec.ofBool s.err).setWidth 32 <<< 2
    ||| (BitVec.ofBool s.schedValid).setWidth 32 <<< 1 ||| (BitVec.ofBool s.busy).setWidth 32

end Sys2Proof.Machine
end

