-- ==== Sys2Proof/Machine/Ops.lean ====
section
/-! DEFINITION. The named operations over the registers that the commands and the bus share: recording and
clearing an error (spec/60_exceptions.md R244, R246), the acceptance checks (R240, R243), the snapshot and
the acceptance of a command (spec/10_state.md R33), register reads and writes (spec/20_memory.md R58). -/

namespace Sys2Proof.Machine

/-- The outcome of a step or of a command. -/
abbrev Outcome := Host.Outcome State Fault Refusal

/-! ### Command errors: the core's only exceptions -/

/-- R244, R245: `raise CmdError(e)`: the first error since the last clear is kept; nothing else changes. -/
def State.cmdError (s : State) (e : CmdError) : State :=
  if s.err then s else { s with err := true, errCode := errorCode e }

/-- R31, R246: a host write of `v` to STATUS: bit 2 set clears ERR and ERRCODE; every other bit is ignored.
The core has no other return from an error. -/
def State.writeStatus (s : State) (v : Word) : State :=
  if v.getLsbD 2 then { s with err := false, errCode := 0 } else s

/-! ### Presenting and accepting a command -/

/-- R240, R243: the error that a presented command raises, the first that applies: BUSY, then BAD_ROUND or
BAD_LEN, then NO_SCHEDULE. (ILLEGAL_OP and RESERVED_BITS are the decoder's.) -/
def State.presentError (s : State) (i : Instr) : Option CmdError :=
  if s.busy then some .busy
  else match i.fieldError with
    | some e => some e
    | none => if needsSchedule i && !s.schedValid then some .noSchedule else none

/-- R240: a command that raises an error has no effect but the record; otherwise it has the effect `t`. -/
def State.perform (s : State) (i : Instr) (t : State) : Outcome :=
  match s.presentError i with
  | some e => .next (s.cmdError e)
  | none => .next t

/-- R33: the registers a command reads, as they stand now. -/
def State.live (s : State) : Snapshot where
  key      := s.key
  nonce    := s.nonce
  din      := s.din
  state    := s.state
  w        := s.w
  ctrIndex := s.ctrIndex

/-- R33, R280: the draw of `CMD_LATENCY` for one command; the next command's latency is a new free value.
Log entries 2 and 8. -/
def State.drawLatency (s : State) : State :=
  { s with nextLatency := Config.cmdLatency s.draws, draws := s.draws + 1 }

/-- R33, R240: accept `i`: snapshot the registers, `inflight <- 1`, `BUSY <- 1`; it completes at the end of
step number `k + 1` from here. -/
def State.accept (s : State) (i : Instr) (k : Nat) : State :=
  { s with inflight := some { cmd := i, snap := s.live, stepsLeft := k } }

/-! ### Registers written by commands -/

/-- R30, R84: `CTR_INDEX <- (CTR_INDEX + 1) mod 2^32` when INC = 1, the old value taken from `n`. -/
def State.advanceIndex (s : State) (n : Word) (inc : Bool) : State :=
  if inc then { s with ctrIndex := n + 1 } else s

/-! ### Registers read and written by the host (R58) -/

/-- R58: the value of the register at an offset while idle; CMD and the reserved offsets read 0. -/
def State.readReg (s : State) : Option Reg → Word
  | some .cmd => 0
  | some .status => s.statusWord
  | some .ctrIndex => s.ctrIndex
  | some .id => Config.idValue
  | some (.key j) => keyLane s.key j
  | some (.nonce j) => blockLane s.nonce j
  | some (.din j) => blockLane s.din j
  | some (.dout j) => blockLane s.dout j
  | some (.state j) => blockLane s.state j
  | some (.w i) => packWord s.w[i]
  | none => 0

/-- R57, R58: a host write of `v` while idle to a register other than CMD and STATUS; a KEY write clears
SCHED_VALID (R22, R29), and a write to a read-only register or a reserved offset has no effect. -/
def State.writeReg (s : State) (r : Option Reg) (v : Word) : State :=
  match r with
  | some .ctrIndex => { s with ctrIndex := v }
  | some (.key j) => { s with key := setKeyLane s.key j v, schedValid := false }
  | some (.nonce j) => { s with nonce := setBlockLane s.nonce j v }
  | some (.din j) => { s with din := setBlockLane s.din j v }
  | some .cmd => s
  | some .status => s
  | some .id => s
  | some (.dout _) => s
  | some (.state _) => s
  | some (.w _) => s
  | none => s

/-- R58, R60: a host read: while BUSY a data register answers a free value, and nothing is stored. -/
def State.hostRead (s : State) (r : Option Reg) : State :=
  if s.busy && !readableWhileBusy r then
    { s with resp := .data (Config.busyRead s.draws), draws := s.draws + 1 }
  else { s with resp := .data (s.readReg r) }

/-! ### Reset -/

/-- R270, R272: the platform resets the core: every register to its reset value, an in-flight command
abandoned. The host's side of the bus is not the core's and stays. Log entry 13. -/
def State.resetCore (s : State) : State :=
  { State.reset with host := s.host, resp := s.resp, nextLatency := s.nextLatency, draws := s.draws }

end Sys2Proof.Machine
end

