-- ==== Sys2Proof/Machine/KeySchedule.lean ====
section
/-! DEFINITION. The key schedule (spec/41_key_schedule.md R130 to R138) and the command EXPAND_KEY (R140). -/

namespace Sys2Proof.Machine

/-- R131: RotWord moves every byte toward index 0; byte 0 becomes the last. -/
def rotWord (a : KWord) : KWord := #v[a[1], a[2], a[3], a[0]]

/-- R132: SubWord applies the S-box to each byte. -/
def subWord (a : KWord) : KWord := Vector.ofFn fun k => sbox a[k]

/-- R12, R134: XOR of two words, bytewise. -/
def xorWord (a b : KWord) : KWord := Vector.ofFn fun k => a[k] ^^^ b[k]

/-- R133: `rc[0..6]`. -/
def rcTable : List Byte := [0x01, 0x02, 0x04, 0x08, 0x10, 0x20, 0x40]

/-- R133: the word `Rcon[j] = (rc[j], 0, 0, 0)`; only the indices 0..6 are ever used (R135). -/
def rcon (j : Nat) : KWord := #v[rcTable.getD j 0, 0, 0, 0]

/-- R130: words 0 to 7 are the key bytes in order. -/
def keyWord (key : Key) (i : Fin 8) : KWord :=
  #v[key[4 * i.val], key[4 * i.val + 1], key[4 * i.val + 2], key[4 * i.val + 3]]

/-- R134, R137: word `i` (8 ≤ i) from `w[i-8]` and `w[i-1]`. -/
def expandWord (i : Nat) (back8 back1 : KWord) : KWord :=
  if i % 8 = 0 then xorWord (xorWord back8 (subWord (rotWord back1))) (rcon (i / 8 - 1))
  else if i % 8 = 4 then xorWord back8 (subWord back1)
  else xorWord back8 back1

/-- R136: the words `w[0..n+7]`, the newest first. -/
def expandRev (key : Key) : Nat → List KWord
  | 0 => [keyWord key 7, keyWord key 6, keyWord key 5, keyWord key 4,
          keyWord key 3, keyWord key 2, keyWord key 1, keyWord key 0]
  | n + 1 =>
    let ws := expandRev key n
    expandWord (n + 8) (ws.getD 7 (Vector.replicate 4 0)) (ws.getD 0 (Vector.replicate 4 0)) :: ws

/-- R136: `KeyExpansion : 32 bytes -> 60 words`. -/
def keyExpansion (key : Key) : Schedule :=
  Vector.ofFn fun i => (expandRev key 52).getD (59 - i.val) (Vector.replicate 4 0)

/-- R138: round key `r` is the 16 bytes of words 4r to 4r+3, in order. -/
def roundKey (w : Schedule) (r : Fin 15) : Block :=
  Vector.ofFn fun k => w[4 * r.val + k.val / 4][k.val % 4]

/-- R140: what EXPAND_KEY writes, from the snapshot `src`. -/
def effectExpandKey (src : Snapshot) (s : State) : State :=
  { s with w := keyExpansion src.key, schedValid := true }

/-- R140: EXPAND_KEY. -/
def execExpandKey (s : State) : Outcome :=
  s.perform .expandKey (effectExpandKey s.live s)

end Sys2Proof.Machine
end

