-- ==== Sys2Proof/Machine/RoundTransform.lean ====
section
/-! DEFINITION. The round primitives and the cipher (spec/42_round_transform.md R160 to R165), and the commands
ENCRYPT, LOAD_STATE, STORE_STATE, ADD_ROUND_KEY, SUB_BYTES, SHIFT_ROWS, MIX_COLUMNS (R170 to R176). Only the
forward direction exists (R166). -/

namespace Sys2Proof.Machine

/-- R161: XOR of a round key into a block, byte for byte. -/
def addRoundKey (b k : Block) : Block := Vector.ofFn fun i => b[i] ^^^ k[i]

/-- R162: the S-box on every byte. -/
def subBytes (b : Block) : Block := Vector.ofFn fun i => sbox b[i]

/-- R163: row r of the matrix rotates left by r positions; byte r + 4c comes from column (c + r) mod 4. -/
def shiftRows (b : Block) : Block :=
  Vector.ofFn fun i => b[i.val % 4 + 4 * ((i.val / 4 + i.val % 4) % 4)]

/-- R164: byte `k` of a column's new value, from the old bytes `s0` to `s3`. -/
def mixByte (s0 s1 s2 s3 : Byte) : Nat → Byte
  | 0 => xtime s0 ^^^ mul3 s1 ^^^ s2 ^^^ s3
  | 1 => s0 ^^^ xtime s1 ^^^ mul3 s2 ^^^ s3
  | 2 => s0 ^^^ s1 ^^^ xtime s2 ^^^ mul3 s3
  | _ => mul3 s0 ^^^ s1 ^^^ s2 ^^^ xtime s3

/-- R164: MixColumns, every column from its old bytes. -/
def mixColumns (b : Block) : Block :=
  Vector.ofFn fun i =>
    mixByte b[4 * (i.val / 4)] b[4 * (i.val / 4) + 1] b[4 * (i.val / 4) + 2] b[4 * (i.val / 4) + 3] (i.val % 4)

/-- R165: one of the rounds 1 to 13. -/
def cipherRound (w : Schedule) (b : Block) (r : Fin 15) : Block :=
  addRoundKey (mixColumns (shiftRows (subBytes b))) (roundKey w r)

/-- R165: round 14, without MixColumns. -/
def finalRound (w : Schedule) (b : Block) : Block :=
  addRoundKey (shiftRows (subBytes b)) (roundKey w 14)

/-- R165: Encrypt, called Cipher: round key 0, rounds 1 to 13, then round 14. -/
def cipher (b : Block) (w : Schedule) : Block :=
  finalRound w
    ([1, 2, 3, 4, 5, 6, 7, 8, 9, 10, 11, 12, 13].foldl (cipherRound w) (addRoundKey b (roundKey w 0)))

/-- R170: what ENCRYPT writes. -/
def effectEncrypt (src : Snapshot) (s : State) : State :=
  let t := cipher src.din src.w
  { s with state := t, dout := t }

/-- R170: ENCRYPT. -/
def execEncrypt (s : State) : Outcome :=
  s.perform .encrypt (effectEncrypt s.live s)

/-- R171: what LOAD_STATE writes. -/
def effectLoadState (src : Snapshot) (s : State) : State := { s with state := src.din }

/-- R171: LOAD_STATE. -/
def execLoadState (s : State) : Outcome :=
  s.perform .loadState (effectLoadState s.live s)

/-- R172: what STORE_STATE writes. -/
def effectStoreState (src : Snapshot) (s : State) : State := { s with dout := src.state }

/-- R172: STORE_STATE. -/
def execStoreState (s : State) : Outcome :=
  s.perform .storeState (effectStoreState s.live s)

/-- R173: what ADD_ROUND_KEY writes. -/
def effectAddRoundKey (rnd : BitVec 4) (src : Snapshot) (s : State) : State :=
  { s with state := addRoundKey src.state (roundKey src.w (roundIndex rnd)) }

/-- R173: ADD_ROUND_KEY. -/
def execAddRoundKey (rnd : BitVec 4) (s : State) : Outcome :=
  s.perform (.addRoundKey rnd) (effectAddRoundKey rnd s.live s)

/-- R174: what SUB_BYTES writes. -/
def effectSubBytes (src : Snapshot) (s : State) : State := { s with state := subBytes src.state }

/-- R174: SUB_BYTES. -/
def execSubBytes (s : State) : Outcome :=
  s.perform .subBytes (effectSubBytes s.live s)

/-- R175: what SHIFT_ROWS writes. -/
def effectShiftRows (src : Snapshot) (s : State) : State := { s with state := shiftRows src.state }

/-- R175: SHIFT_ROWS. -/
def execShiftRows (s : State) : Outcome :=
  s.perform .shiftRows (effectShiftRows s.live s)

/-- R176: what MIX_COLUMNS writes. -/
def effectMixColumns (src : Snapshot) (s : State) : State := { s with state := mixColumns src.state }

/-- R176: MIX_COLUMNS. -/
def execMixColumns (s : State) : Outcome :=
  s.perform .mixColumns (effectMixColumns s.live s)

end Sys2Proof.Machine
end

