-- ==== Sys2Proof/Machine/CtrMode.lean ====
section
/-! DEFINITION. The counter block, the keystream and its XOR (spec/43_ctr_mode.md R200 to R202), and the
commands CTR_KEYSTREAM, CTR_XOR, CTR_LOAD_BLOCK (R203 to R205). -/

namespace Sys2Proof.Machine

/-- R200: byte `k` of the big-endian 32-bit encoding of the block index, k = 0..3. -/
def indexByte (n : Word) (k : Nat) : Byte := n.extractLsb' (8 * (3 - k)) 8

/-- R200: the block index is XORed into nonce bytes 0..3 only. -/
def counterBlock (nonce : Block) (n : Word) : Block :=
  Vector.ofFn fun k => if k.val < 4 then nonce[k] ^^^ indexByte n k.val else nonce[k]

/-- R201: the keystream block for index `n`. -/
def keystream (nonce : Block) (n : Word) (w : Schedule) : Block := cipher (counterBlock nonce n) w

/-- R202, R204: the first `len` data bytes XORed with the keystream; the bytes beyond read 0. -/
def xorPrefix (len : Nat) (data ks : Block) : Block :=
  Vector.ofFn fun j => if j.val < len then data[j] ^^^ ks[j] else 0

/-- R203: what CTR_KEYSTREAM writes. -/
def effectCtrKeystream (inc : Bool) (src : Snapshot) (s : State) : State :=
  let t := keystream src.nonce src.ctrIndex src.w
  { s with state := t, dout := t }.advanceIndex src.ctrIndex inc

/-- R203: CTR_KEYSTREAM. -/
def execCtrKeystream (inc : Bool) (s : State) : Outcome :=
  s.perform (.ctrKeystream inc) (effectCtrKeystream inc s.live s)

/-- R204: what CTR_XOR writes: DOUT the masked output, STATE the whole keystream block. -/
def effectCtrXor (len : BitVec 5) (inc : Bool) (src : Snapshot) (s : State) : State :=
  let t := keystream src.nonce src.ctrIndex src.w
  { s with state := t, dout := xorPrefix len.toNat src.din t }.advanceIndex src.ctrIndex inc

/-- R204: CTR_XOR. -/
def execCtrXor (len : BitVec 5) (inc : Bool) (s : State) : Outcome :=
  s.perform (.ctrXor len inc) (effectCtrXor len inc s.live s)

/-- R205: what CTR_LOAD_BLOCK writes. -/
def effectCtrLoadBlock (src : Snapshot) (s : State) : State :=
  { s with state := counterBlock src.nonce src.ctrIndex }

/-- R205: CTR_LOAD_BLOCK. -/
def execCtrLoadBlock (s : State) : Outcome :=
  s.perform .ctrLoadBlock (effectCtrLoadBlock s.live s)

end Sys2Proof.Machine
end

