-- ==== Sys2Proof/Machine/Control.lean ====
section
/-! DEFINITION. The control commands NOP and ZEROIZE (spec/44_control.md R230, R231). -/

namespace Sys2Proof.Machine

/-- R230: what NOP writes: nothing. -/
def effectNop (_src : Snapshot) (s : State) : State := s

/-- R230: NOP. -/
def execNop (s : State) : Outcome :=
  s.perform .nop (effectNop s.live s)

/-- R231: what ZEROIZE writes: all key and data state cleared; ERR and ERRCODE are kept. -/
def effectZeroize (_src : Snapshot) (s : State) : State :=
  { s with
    key := zeroKey, nonce := zeroBlock, din := zeroBlock, dout := zeroBlock, state := zeroBlock,
    w := zeroSchedule, ctrIndex := 0, schedValid := false }

/-- R231: ZEROIZE. -/
def execZeroize (s : State) : Outcome :=
  s.perform .zeroize (effectZeroize s.live s)

end Sys2Proof.Machine
end

