-- ==== Sys2Proof/Machine/Dispatch.lean ====
section
/-! DEFINITION. One arm per command: the command presented to the core and carried through to its
completion (spec/60_exceptions.md R240). How many steps lie between the two is `Sys2Proof.Machine.step`'s. -/

namespace Sys2Proof.Machine

def exec (i : Instr) (s : State) : Host.Outcome State Fault Refusal :=
  match i with
  | .nop => Sys2Proof.Machine.execNop s
  | .expandKey => Sys2Proof.Machine.execExpandKey s
  | .encrypt => Sys2Proof.Machine.execEncrypt s
  | .ctrKeystream inc => Sys2Proof.Machine.execCtrKeystream inc s
  | .ctrXor len inc => Sys2Proof.Machine.execCtrXor len inc s
  | .loadState => Sys2Proof.Machine.execLoadState s
  | .storeState => Sys2Proof.Machine.execStoreState s
  | .addRoundKey rnd => Sys2Proof.Machine.execAddRoundKey rnd s
  | .subBytes => Sys2Proof.Machine.execSubBytes s
  | .shiftRows => Sys2Proof.Machine.execShiftRows s
  | .mixColumns => Sys2Proof.Machine.execMixColumns s
  | .ctrLoadBlock => Sys2Proof.Machine.execCtrLoadBlock s
  | .zeroize => Sys2Proof.Machine.execZeroize s

end Sys2Proof.Machine
end

