-- ==== Sys2Proof/Machine/Bus.lean ====
section
/-! DEFINITION. What one host access does to the core (spec/20_memory.md R51 to R60), the presenting of a
command word (spec/60_exceptions.md R240), the progress and completion of the in-flight command
(spec/10_state.md R33), and one turn of the host. -/

namespace Sys2Proof.Machine

/-- R33, R240: the writes of a command, applied at its completion with values computed from the snapshot. -/
def applyWrites : Instr → Snapshot → State → State
  | .nop => effectNop
  | .expandKey => effectExpandKey
  | .encrypt => effectEncrypt
  | .ctrKeystream inc => effectCtrKeystream inc
  | .ctrXor len inc => effectCtrXor len inc
  | .loadState => effectLoadState
  | .storeState => effectStoreState
  | .addRoundKey rnd => effectAddRoundKey rnd
  | .subBytes => effectSubBytes
  | .shiftRows => effectShiftRows
  | .mixColumns => effectMixColumns
  | .ctrLoadBlock => effectCtrLoadBlock
  | .zeroize => effectZeroize

/-- R33: the in-flight command advances by one step; at its last one all its writes are applied at once, and
`inflight <- 0`, `BUSY <- 0`. -/
def State.tick (s : State) : State :=
  match s.inflight with
  | none => s
  | some f =>
    match f.stepsLeft with
    | 0 => applyWrites f.cmd f.snap { s with inflight := none }
    | k + 1 => { s with inflight := some { f with stepsLeft := k } }

/-- R32, R240: the host presents the command word `c`. With latency 0 the accepted command completes at once,
before any later access (R63); with latency k + 1 it goes in flight. A command that raises an error is never
accepted. Log entry 8: the latency is drawn for every decodable word presented to an idle core. -/
def State.present (s : State) (c : Word) : Outcome :=
  if s.busy then .next (s.cmdError .busy)
  else match decode c with
    | .error e => .next (s.cmdError e)
    | .ok i =>
      match s.presentError i, s.nextLatency with
      | none, k + 1 => .next (s.drawLatency.accept i k)
      | _, _ => exec i s.drawLatency

/-- R58, R60: a host write of `v`. While BUSY only a STATUS write takes effect; any other is dropped and
raises BUSY. -/
def State.hostWrite (s : State) (r : Option Reg) (v : Word) : Outcome :=
  match r with
  | some .cmd => s.present v
  | some .status => .next (s.writeStatus v)
  | r => if s.busy then .next (s.cmdError .busy) else .next (s.writeReg r v)

/-- R52, R53: one access that reaches the core. Only an aligned 32-bit access is accepted; any other gets a
bus error. -/
def State.access (s : State) (a : Access) : Outcome :=
  if a.bits = 32 ∧ a.off.toNat % 4 = 0 then
    match a.kind with
    | .read => .next (s.hostRead (regAt a.off))
    | .write v => { s with resp := .done }.hostWrite (regAt a.off) v
  else .fault .busError

/-- One turn of the host: its next operation; with none left the host does nothing (R271: the core waits).
Log entry 10. -/
def State.hostTurn (s : State) : Outcome :=
  match s.host with
  | [] => .next s
  | .access a :: rest => { s with host := rest }.access a
  | .busAccess kind bits addr :: rest =>
    match windowOffset addr with
    | some off => { s with host := rest }.access { kind := kind, bits := bits, off := off }
    | none => .next { s with host := rest, resp := .notSelected }
  | .poll :: rest =>
    let t := s.hostRead (some .status)
    .next (if s.busy then t else { t with host := rest })
  | .reset :: rest => .next { s with host := rest }.resetCore

end Sys2Proof.Machine
end

