-- ==== Sys2Proof/Machine/Step.lean ====
section
/-! DEFINITION. One host-observable step (spec/10_state.md R33): the host's next operation, and then the
progress of the command that was in flight when the step began. The core has no program counter and fetches
nothing (R21): the host's accesses are the program (spec/30_encoding.md R91). -/

namespace Sys2Proof.Machine

/-- R33, R63: one step. A command accepted in this step starts to count in the next one. Log entry 7. -/
def step (s : State) : Host.Outcome State Fault Refusal :=
  match s.busy, s.hostTurn with
  | true, .next t => .next t.tick
  | _, r => r

/-- The state `s` in which the very next step presents the command word `w` (of `nbits` bits, numbered as
spec/opcode_table.json numbers them) and runs it: the host's next operation is the write of the word to CMD
(R91, R93), no command is in flight, and the word's latency is 0 so that it completes in that step. Log
entry 6. -/
def State.withFetchWord (s : State) (nbits w : Nat) : State :=
  { s with
    host := .access { kind := .write (BitVec.ofNat 32 (w % 2 ^ nbits)), bits := 32, off := 0 } :: s.host
    inflight := none
    nextLatency := 0 }

end Sys2Proof.Machine
end

