-- ==== Sys2Proof/Machine/Asm.lean ====
section
/-! DEFINITION. The host's assembler (spec/30_encoding.md R92, R93) and the host procedures the spec writes
down (spec/43_ctr_mode.md R206, spec/70_reset_and_hazards.md R273), as lists of host operations. They are no
part of the core: `step` sees only the operations. -/

namespace Sys2Proof.Machine.Asm

/-- R92: `wr <REG>, <imm32>`. -/
def wr (r : Reg) (v : Word) : HostOp := .access { kind := .write v, bits := 32, off := r.offset }

/-- R92: `rd <REG>`. -/
def rd (r : Reg) : HostOp := .access { kind := .read, bits := 32, off := r.offset }

/-- R93: `cmd <MNEMONIC> ...`. -/
def cmd (i : Instr) : HostOp := wr .cmd (encode i)

/-- R93: `clrerr`. -/
def clrerr : HostOp := wr .status 0x00000004

/-- R93: `wrkey <32 bytes>`, 8 writes in order. -/
def wrkey (k : Key) : List HostOp := List.ofFn fun j => wr (.key j) (keyLane k j)

/-- R93: `wrnonce <16 bytes>`. -/
def wrnonce (b : Block) : List HostOp := List.ofFn fun j => wr (.nonce j) (blockLane b j)

/-- R93: `wrdin <16 bytes>`. -/
def wrdin (b : Block) : List HostOp := List.ofFn fun j => wr (.din j) (blockLane b j)

/-- R93: `rdout`. -/
def rdout : List HostOp := List.ofFn fun j => rd (.dout j)

/-- R93: `rdstate`. -/
def rdstate : List HostOp := List.ofFn fun j => rd (.state j)

/-- R206: the bytes of a chunk as a block, padded (the spec allows any padding; the host pads with 0: log entry 17). -/
def padBlock (chunk : List Byte) : Block := Vector.ofFn fun i => chunk.getD i.val 0

/-- R273 step 4: one block: DIN written, the command run to its end, DOUT read. -/
def runBlock (i : Instr) (data : Block) : List HostOp := wrdin data ++ [cmd i, .poll] ++ rdout

/-- R273 step 4 with ENCRYPT. -/
def encryptBlock (data : Block) : List HostOp := runBlock .encrypt data

/-- R206, R273 step 4 with CTR_XOR len=L inc: a chunk of 1 to 16 bytes. -/
def transformChunk (chunk : List Byte) : List HostOp :=
  runBlock (.ctrXor (BitVec.ofNat 5 chunk.length) true) (padBlock chunk)

/-- R206: the blocks of a buffer, 16 bytes each; the last one may be shorter. -/
def chunks (buf : List Byte) : List (List Byte) :=
  (List.range ((buf.length + 15) / 16)).map fun n => (buf.drop (16 * n)).take 16

/-- R206: the accesses that transform a buffer. -/
def transformBuffer (buf : List Byte) : List HostOp :=
  wr .ctrIndex 0 :: (chunks buf).flatMap transformChunk

/-- R273 steps 1 and 2: all 8 KEY words written, then `cmd EXPAND_KEY ; poll`. -/
def loadKey (k : Key) : List HostOp := wrkey k ++ [cmd .expandKey, .poll]

/-- R273 step 3: all 4 NONCE words and CTR_INDEX (normally 0) written. -/
def loadCounter (nonce : Block) (n : Word) : List HostOp := wrnonce nonce ++ [wr .ctrIndex n]

/-- R273 steps 1 to 3. -/
def beginSession (k : Key) (nonce : Block) (n : Word) : List HostOp := loadKey k ++ loadCounter nonce n

/-- R273 step 5: read STATUS. -/
def checkSession : List HostOp := [rd .status]

/-- R273 step 5: what the STATUS value says: the session ran clean exactly when ERR = 0. -/
def ranClean (status : Word) : Bool := !status.getLsbD 2

/-- R273 step 6: `cmd ZEROIZE ; poll`, recommended and not required. -/
def endSession : List HostOp := [cmd .zeroize, .poll]

/-- R273 steps 1 to 6: a CTR session over a buffer, from block index 0. -/
def ctrSession (k : Key) (nonce : Block) (buf : List Byte) : List HostOp :=
  beginSession k nonce 0 ++ (chunks buf).flatMap transformChunk ++ checkSession ++ endSession

/-- R273 without step 3, for ENCRYPT. -/
def encryptSession (k : Key) (blocks : List Block) : List HostOp :=
  loadKey k ++ blocks.flatMap encryptBlock ++ checkSession ++ endSession

/-- R177: the commands that make up ENCRYPT one primitive at a time. -/
def stepCommands : List Instr :=
  [.loadState, .addRoundKey 0] ++
    ([1, 2, 3, 4, 5, 6, 7, 8, 9, 10, 11, 12, 13] : List (BitVec 4)).flatMap
      (fun r => [.subBytes, .shiftRows, .mixColumns, .addRoundKey r]) ++
    [.subBytes, .shiftRows, .addRoundKey 14, .storeState]

end Sys2Proof.Machine.Asm
end

