-- ==== Sys2Proof/Safety.lean ====
section
/-! DEFINITION. The terms in which claims are made: the invariant of the core's state, readiness for a
command, 32-bit accesses, and running commands one after another. A run is safe when every state of it meets
`State.Inv` and no step answers a fault or a refusal. -/

namespace Sys2Proof.Machine

/-- The invariant of every state the core reaches. -/
structure State.Inv (s : State) : Prop where
  /-- R29, R242: while SCHED_VALID = 1, W holds KeyExpansion(KEY). -/
  schedule : s.schedValid = true → s.w = keyExpansion s.key
  /-- R33, R277: the snapshot of the in-flight command equals the live registers. -/
  snapshot : ∀ f, s.inflight = some f → f.snap = s.live
  /-- R89, R240: the in-flight command is one the decoder accepts. -/
  command : ∀ f, s.inflight = some f → f.cmd.wf = true
  /-- R240, R242: a schedule-using command is in flight only while SCHED_VALID = 1. -/
  needs : ∀ f, s.inflight = some f → needsSchedule f.cmd = true → s.schedValid = true
  /-- R241, R244: ERRCODE is 0 exactly while ERR = 0. -/
  noError : s.err = false ↔ s.errCode = 0
  /-- R241, U11: the codes 0x7 to 0xF are never produced. -/
  codes : s.errCode.toNat ≤ 6

/-- R240, R243: the core is idle and would accept `i`. -/
structure State.Ready (s : State) (i : Instr) : Prop where
  /-- No command is in flight (R276). -/
  idle : s.inflight = none
  /-- RND and LEN are legal (R82, R83). -/
  legal : i.wf = true
  /-- The schedule is valid where the command needs it (R242). -/
  schedule : needsSchedule i = true → s.schedValid = true

/-- R91: a 32-bit host write of `v` at an offset. -/
def write32 (off : BitVec 10) (v : Word) : HostOp := .access { kind := .write v, bits := 32, off := off }

/-- R91: a 32-bit host read at an offset. -/
def read32 (off : BitVec 10) : HostOp := .access { kind := .read, bits := 32, off := off }

/-- Commands run one after another, each to its completion. -/
def runCommands : List Instr → State → Outcome
  | [], s => .next s
  | i :: rest, s =>
    match exec i s with
    | .next t => runCommands rest t
    | .fault r => .fault r
    | .refused r => .refused r

/-- The state in which the core has taken the write of a command word off the host's list: the host goes on
with `rest`, and the command's latency is drawn. -/
def State.atCommand (s : State) (rest : List HostOp) : State :=
  { s with host := rest, resp := .done }.drawLatency

end Sys2Proof.Machine
end

