-- ==== Sys2Proof/Laws/State.lean ====
section
/-! SUPPORT. What each named update of the state writes and what it leaves, so that no proof unfolds a record
update again. -/

namespace Sys2Proof.Machine

/-! ### `drawLatency` -/
section
variable (s : State)
@[simp] theorem State.drawLatency_key : s.drawLatency.key = s.key := rfl
@[simp] theorem State.drawLatency_nonce : s.drawLatency.nonce = s.nonce := rfl
@[simp] theorem State.drawLatency_din : s.drawLatency.din = s.din := rfl
@[simp] theorem State.drawLatency_dout : s.drawLatency.dout = s.dout := rfl
@[simp] theorem State.drawLatency_state : s.drawLatency.state = s.state := rfl
@[simp] theorem State.drawLatency_w : s.drawLatency.w = s.w := rfl
@[simp] theorem State.drawLatency_ctrIndex : s.drawLatency.ctrIndex = s.ctrIndex := rfl
@[simp] theorem State.drawLatency_schedValid : s.drawLatency.schedValid = s.schedValid := rfl
@[simp] theorem State.drawLatency_err : s.drawLatency.err = s.err := rfl
@[simp] theorem State.drawLatency_errCode : s.drawLatency.errCode = s.errCode := rfl
@[simp] theorem State.drawLatency_inflight : s.drawLatency.inflight = s.inflight := rfl
@[simp] theorem State.drawLatency_host : s.drawLatency.host = s.host := rfl
@[simp] theorem State.drawLatency_resp : s.drawLatency.resp = s.resp := rfl
@[simp] theorem State.drawLatency_live : s.drawLatency.live = s.live := rfl
@[simp] theorem State.drawLatency_busy : s.drawLatency.busy = s.busy := rfl
end

/-! ### `accept` -/
section
variable (s : State) (i : Instr) (k : Nat)
@[simp] theorem State.accept_live : (s.accept i k).live = s.live := rfl
@[simp] theorem State.accept_dout : (s.accept i k).dout = s.dout := rfl
@[simp] theorem State.accept_schedValid : (s.accept i k).schedValid = s.schedValid := rfl
@[simp] theorem State.accept_err : (s.accept i k).err = s.err := rfl
@[simp] theorem State.accept_errCode : (s.accept i k).errCode = s.errCode := rfl
@[simp] theorem State.accept_busy : (s.accept i k).busy = true := rfl
@[simp] theorem State.accept_host : (s.accept i k).host = s.host := rfl
@[simp] theorem State.accept_inflight :
    (s.accept i k).inflight = some { cmd := i, snap := s.live, stepsLeft := k } := rfl
end

/-! ### `live`, `busy` -/
section
variable (s : State)
@[simp] theorem State.live_key : s.live.key = s.key := rfl
@[simp] theorem State.live_nonce : s.live.nonce = s.nonce := rfl
@[simp] theorem State.live_din : s.live.din = s.din := rfl
@[simp] theorem State.live_state : s.live.state = s.state := rfl
@[simp] theorem State.live_w : s.live.w = s.w := rfl
@[simp] theorem State.live_ctrIndex : s.live.ctrIndex = s.ctrIndex := rfl

theorem State.busy_eq_false : s.busy = false ↔ s.inflight = none := by
  simp [State.busy]

theorem State.busy_of_inflight {s : State} {f : InFlight} (h : s.inflight = some f) : s.busy = true := by
  simp [State.busy, h]

theorem State.busy_of_idle {s : State} (h : s.inflight = none) : s.busy = false := by
  simp [State.busy, h]
end

/-! ### `cmdError` -/
section
variable (s : State) (e : CmdError)

theorem State.cmdError_eq :
    s.cmdError e =
      { s with err := true, errCode := if s.err then s.errCode else errorCode e } := by
  cases h : s.err
  · simp [State.cmdError, h]
  · simp [State.cmdError, h]; rw [← h]

@[simp] theorem State.cmdError_live : (s.cmdError e).live = s.live := by rw [State.cmdError_eq]; rfl
@[simp] theorem State.cmdError_key : (s.cmdError e).key = s.key := by rw [State.cmdError_eq]
@[simp] theorem State.cmdError_nonce : (s.cmdError e).nonce = s.nonce := by rw [State.cmdError_eq]
@[simp] theorem State.cmdError_din : (s.cmdError e).din = s.din := by rw [State.cmdError_eq]
@[simp] theorem State.cmdError_dout : (s.cmdError e).dout = s.dout := by rw [State.cmdError_eq]
@[simp] theorem State.cmdError_state : (s.cmdError e).state = s.state := by rw [State.cmdError_eq]
@[simp] theorem State.cmdError_w : (s.cmdError e).w = s.w := by rw [State.cmdError_eq]
@[simp] theorem State.cmdError_ctrIndex : (s.cmdError e).ctrIndex = s.ctrIndex := by rw [State.cmdError_eq]
@[simp] theorem State.cmdError_schedValid : (s.cmdError e).schedValid = s.schedValid := by
  rw [State.cmdError_eq]
@[simp] theorem State.cmdError_err : (s.cmdError e).err = true := by rw [State.cmdError_eq]
@[simp] theorem State.cmdError_errCode :
    (s.cmdError e).errCode = if s.err then s.errCode else errorCode e := by rw [State.cmdError_eq]
@[simp] theorem State.cmdError_inflight : (s.cmdError e).inflight = s.inflight := by rw [State.cmdError_eq]
@[simp] theorem State.cmdError_host : (s.cmdError e).host = s.host := by rw [State.cmdError_eq]
@[simp] theorem State.cmdError_resp : (s.cmdError e).resp = s.resp := by rw [State.cmdError_eq]
@[simp] theorem State.cmdError_nextLatency : (s.cmdError e).nextLatency = s.nextLatency := by
  rw [State.cmdError_eq]
@[simp] theorem State.cmdError_draws : (s.cmdError e).draws = s.draws := by rw [State.cmdError_eq]
@[simp] theorem State.cmdError_busy : (s.cmdError e).busy = s.busy := by rw [State.cmdError_eq]; rfl
end

/-! ### `writeStatus`, `advanceIndex` -/
section
variable (s : State) (v n : Word) (inc : Bool)

theorem State.writeStatus_eq :
    s.writeStatus v =
      { s with
        err := if v.getLsbD 2 then false else s.err
        errCode := if v.getLsbD 2 then 0 else s.errCode } := by
  unfold State.writeStatus; split <;> rfl

@[simp] theorem State.writeStatus_live : (s.writeStatus v).live = s.live := by
  rw [State.writeStatus_eq]; rfl
@[simp] theorem State.writeStatus_schedValid : (s.writeStatus v).schedValid = s.schedValid := by
  rw [State.writeStatus_eq]
@[simp] theorem State.writeStatus_inflight : (s.writeStatus v).inflight = s.inflight := by
  rw [State.writeStatus_eq]

theorem State.advanceIndex_eq :
    s.advanceIndex n inc = { s with ctrIndex := if inc then n + 1 else s.ctrIndex } := by
  cases inc <;> rfl
end

/-! ### `hostRead` -/
section
variable (s : State) (r : Option Reg)

theorem State.hostRead_eq :
    s.hostRead r =
      { s with
        resp := .data (if s.busy && !readableWhileBusy r then Config.busyRead s.draws else s.readReg r)
        draws := if s.busy && !readableWhileBusy r then s.draws + 1 else s.draws } := by
  unfold State.hostRead; split <;> rfl

@[simp] theorem State.hostRead_live : (s.hostRead r).live = s.live := by rw [State.hostRead_eq]; rfl
@[simp] theorem State.hostRead_schedValid : (s.hostRead r).schedValid = s.schedValid := by
  rw [State.hostRead_eq]
@[simp] theorem State.hostRead_err : (s.hostRead r).err = s.err := by rw [State.hostRead_eq]
@[simp] theorem State.hostRead_errCode : (s.hostRead r).errCode = s.errCode := by rw [State.hostRead_eq]
@[simp] theorem State.hostRead_inflight : (s.hostRead r).inflight = s.inflight := by rw [State.hostRead_eq]
end

/-! ### `writeReg` -/

@[simp] theorem State.writeReg_inflight (s : State) (r : Option Reg) (v : Word) :
    (s.writeReg r v).inflight = s.inflight := by
  unfold State.writeReg; split <;> rfl

@[simp] theorem State.writeReg_host (s : State) (r : Option Reg) (v : Word) :
    (s.writeReg r v).host = s.host := by
  unfold State.writeReg; split <;> rfl

end Sys2Proof.Machine
end

