-- ==== Sys2Proof/Laws/Ops.lean ====
section
/-! SUPPORT. One lemma per shared operation that says everything it can do: the acceptance checks, the
performing of a command, its completion, and the shape of a step. -/

namespace Sys2Proof.Machine

/-- A command is well formed exactly when the decoder's value checks pass. -/
theorem fieldError_eq_none_iff (i : Instr) : i.fieldError = none ↔ i.wf = true := by
  cases i <;> simp [Instr.fieldError, Instr.wf]

/-- The acceptance checks pass exactly when the core is ready for the command. -/
theorem presentError_eq_none_iff (s : State) (i : Instr) : s.presentError i = none ↔ s.Ready i := by
  constructor
  · intro h
    unfold State.presentError at h
    split at h
    · cases h
    · rename_i hb
      split at h
      · cases h
      · rename_i hf
        refine ⟨(State.busy_eq_false s).1 (by simpa using hb), (fieldError_eq_none_iff i).1 hf, ?_⟩
        intro hn
        cases hv : s.schedValid
        · simp [hn, hv] at h
        · rfl
  · rintro ⟨hi, hw, hs⟩
    have hn : (needsSchedule i && !s.schedValid) = false := by
      cases h : needsSchedule i
      · rfl
      · simp [hs h]
    simp [State.presentError, State.busy_of_idle hi, (fieldError_eq_none_iff i).2 hw, hn]

/-- What a performed command answers: an error recorded and nothing else, or its effect. -/
theorem perform_cases {s t u : State} {i : Instr} (h : s.perform i t = .next u) :
    (∃ e, s.presentError i = some e ∧ u = s.cmdError e) ∨ (s.Ready i ∧ u = t) := by
  unfold State.perform at h
  cases he : s.presentError i with
  | some e => rw [he] at h; exact .inl ⟨e, rfl, by cases h; rfl⟩
  | none => rw [he] at h; exact .inr ⟨(presentError_eq_none_iff s i).1 he, by cases h; rfl⟩

/-- A command for which the core is ready has its effect. -/
theorem perform_of_ready {s : State} {i : Instr} (h : s.Ready i) (t : State) : s.perform i t = .next t := by
  simp [State.perform, (presentError_eq_none_iff s i).2 h]

/-- A command that raises an error has no effect but the record. -/
theorem perform_of_error {s : State} {i : Instr} {e : CmdError} (h : s.presentError i = some e) (t : State) :
    s.perform i t = .next (s.cmdError e) := by
  simp [State.perform, h]

/-- Every command, presented and completed at once, applies its writes to the registers as they stand. -/
theorem exec_eq_perform (i : Instr) (s : State) : exec i s = s.perform i (applyWrites i s.live s) := by
  cases i <;> rfl

/-- A command always answers a next state. -/
theorem exec_next (i : Instr) (s : State) : ∃ t, exec i s = .next t := by
  rw [exec_eq_perform]
  unfold State.perform
  split
  · exact ⟨_, rfl⟩
  · exact ⟨_, rfl⟩

/-! ### What each command's writes are

The right sides are record updates, so that a projection of them reduces without unfolding the cipher or the
key expansion. -/
section
variable (src : Snapshot) (s : State)
@[simp] theorem effectNop_eq : effectNop src s = s := rfl
@[simp] theorem effectExpandKey_eq :
    effectExpandKey src s = { s with w := keyExpansion src.key, schedValid := true } := rfl
@[simp] theorem effectEncrypt_eq :
    effectEncrypt src s = { s with state := cipher src.din src.w, dout := cipher src.din src.w } := rfl
@[simp] theorem effectLoadState_eq : effectLoadState src s = { s with state := src.din } := rfl
@[simp] theorem effectStoreState_eq : effectStoreState src s = { s with dout := src.state } := rfl
@[simp] theorem effectAddRoundKey_eq (rnd : BitVec 4) :
    effectAddRoundKey rnd src s =
      { s with state := addRoundKey src.state (roundKey src.w (roundIndex rnd)) } := rfl
@[simp] theorem effectSubBytes_eq : effectSubBytes src s = { s with state := subBytes src.state } := rfl
@[simp] theorem effectShiftRows_eq : effectShiftRows src s = { s with state := shiftRows src.state } := rfl
@[simp] theorem effectMixColumns_eq : effectMixColumns src s = { s with state := mixColumns src.state } := rfl
@[simp] theorem effectCtrKeystream_eq (inc : Bool) :
    effectCtrKeystream inc src s =
      { s with
        state := keystream src.nonce src.ctrIndex src.w
        dout := keystream src.nonce src.ctrIndex src.w
        ctrIndex := if inc then src.ctrIndex + 1 else s.ctrIndex } := by
  simp only [effectCtrKeystream, State.advanceIndex_eq]
@[simp] theorem effectCtrXor_eq (len : BitVec 5) (inc : Bool) :
    effectCtrXor len inc src s =
      { s with
        state := keystream src.nonce src.ctrIndex src.w
        dout := xorPrefix len.toNat src.din (keystream src.nonce src.ctrIndex src.w)
        ctrIndex := if inc then src.ctrIndex + 1 else s.ctrIndex } := by
  simp only [effectCtrXor, State.advanceIndex_eq]
@[simp] theorem effectCtrLoadBlock_eq :
    effectCtrLoadBlock src s = { s with state := counterBlock src.nonce src.ctrIndex } := rfl
@[simp] theorem effectZeroize_eq :
    effectZeroize src s =
      { s with
        key := zeroKey, nonce := zeroBlock, din := zeroBlock, dout := zeroBlock, state := zeroBlock,
        w := zeroSchedule, ctrIndex := 0, schedValid := false } := rfl
end

/-- The status bits other than SCHED_VALID are no command's to write. -/
@[simp] theorem applyWrites_err (i : Instr) (src : Snapshot) (s : State) :
    (applyWrites i src s).err = s.err := by
  cases i <;> simp [applyWrites]

@[simp] theorem applyWrites_inflight (i : Instr) (src : Snapshot) (s : State) :
    (applyWrites i src s).inflight = s.inflight := by
  cases i <;> simp [applyWrites]

@[simp] theorem applyWrites_errCode (i : Instr) (src : Snapshot) (s : State) :
    (applyWrites i src s).errCode = s.errCode := by
  cases i <;> simp [applyWrites]

/-- No command touches the host's side of the bus. -/
@[simp] theorem applyWrites_host (i : Instr) (src : Snapshot) (s : State) :
    (applyWrites i src s).host = s.host := by
  cases i <;> simp [applyWrites]

@[simp] theorem applyWrites_resp (i : Instr) (src : Snapshot) (s : State) :
    (applyWrites i src s).resp = s.resp := by
  cases i <;> simp [applyWrites]

@[simp] theorem applyWrites_nextLatency (i : Instr) (src : Snapshot) (s : State) :
    (applyWrites i src s).nextLatency = s.nextLatency := by
  cases i <;> simp [applyWrites]

@[simp] theorem applyWrites_draws (i : Instr) (src : Snapshot) (s : State) :
    (applyWrites i src s).draws = s.draws := by
  cases i <;> simp [applyWrites]

/-- An idle core has nothing to advance. -/
theorem tick_idle {s : State} (h : s.inflight = none) : s.tick = s := by
  simp [State.tick, h]

/-- The last step of the in-flight command applies its writes and ends it. -/
theorem tick_last {s : State} {f : InFlight} (h : s.inflight = some f) (h0 : f.stepsLeft = 0) :
    s.tick = applyWrites f.cmd f.snap { s with inflight := none } := by
  simp [State.tick, h, h0]

/-- Any earlier step only counts. -/
theorem tick_more {s : State} {f : InFlight} {k : Nat} (h : s.inflight = some f) (hk : f.stepsLeft = k + 1) :
    s.tick = { s with inflight := some { f with stepsLeft := k } } := by
  simp [State.tick, h, hk]

/-- A step of an idle core is the host's turn. -/
theorem step_idle {s : State} (h : s.inflight = none) : step s = s.hostTurn := by
  unfold step
  rw [State.busy_of_idle h]

/-- What a step that answers a next state did: the host's turn, and the progress of the command that was in
flight before it. -/
theorem step_cases {s t : State} (h : step s = .next t) :
    ∃ u, s.hostTurn = .next u ∧ t = if s.busy then u.tick else u := by
  unfold step at h
  cases hb : s.busy <;> cases ht : s.hostTurn <;> simp_all

/-! ### The window -/

/-- An address in the window reaches the core at its offset from `BASE`. -/
theorem windowOffset_inside (off : BitVec 10) : windowOffset (Config.base + off.toNat) = some off := by
  have h : Config.base ≤ Config.base + off.toNat ∧ Config.base + off.toNat < Config.base + Config.windowSize :=
    ⟨Nat.le_add_right _ _, Nat.add_lt_add_left off.isLt _⟩
  unfold windowOffset
  rw [if_pos h, Nat.add_sub_cancel_left, BitVec.ofNat_toNat, BitVec.setWidth_eq]

/-- An address outside the window does not reach the core. -/
theorem windowOffset_outside {addr : Nat} (h : addr < Config.base ∨ Config.base + 0x400 ≤ addr) :
    windowOffset addr = none := by
  unfold windowOffset
  rw [if_neg]
  show ¬(Config.base ≤ addr ∧ addr < Config.base + 0x400)
  omega

/-! ### The host's turn, operation by operation -/

theorem hostTurn_nil {s : State} (h : s.host = []) : s.hostTurn = .next s := by
  simp [State.hostTurn, h]

theorem hostTurn_access {s : State} {a : Access} {rest : List HostOp} (h : s.host = .access a :: rest) :
    s.hostTurn = State.access { s with host := rest } a := by
  simp [State.hostTurn, h]

theorem hostTurn_busAccess {s : State} {kind : AccessKind} {bits addr : Nat} {rest : List HostOp}
    {off : BitVec 10} (h : s.host = .busAccess kind bits addr :: rest) (ho : windowOffset addr = some off) :
    s.hostTurn = State.access { s with host := rest } { kind := kind, bits := bits, off := off } := by
  simp [State.hostTurn, h, ho]

theorem hostTurn_outside {s : State} {kind : AccessKind} {bits addr : Nat} {rest : List HostOp}
    (h : s.host = .busAccess kind bits addr :: rest) (ho : windowOffset addr = none) :
    s.hostTurn = .next { s with host := rest, resp := .notSelected } := by
  simp [State.hostTurn, h, ho]

theorem hostTurn_poll {s : State} {rest : List HostOp} (h : s.host = .poll :: rest) :
    s.hostTurn = .next
      { s with host := if s.busy then s.host else rest, resp := .data s.statusWord } := by
  cases hb : s.busy <;> simp [State.hostTurn, h, hb, State.hostRead_eq, readableWhileBusy, State.readReg]

theorem hostTurn_reset {s : State} {rest : List HostOp} (h : s.host = .reset :: rest) :
    s.hostTurn = .next { State.reset with
      host := rest, resp := s.resp, nextLatency := s.nextLatency, draws := s.draws } := by
  simp [State.hostTurn, h, State.resetCore]

/-- An aligned 32-bit read answers the register at the offset. -/
theorem hostTurn_read {s : State} {off : BitVec 10} {rest : List HostOp} (h : s.host = read32 off :: rest)
    (ha : off.toNat % 4 = 0) : s.hostTurn = .next (State.hostRead { s with host := rest } (regAt off)) := by
  rw [hostTurn_access h]
  simp [State.access, ha]

/-- An aligned 32-bit write reaches the register at the offset. -/
theorem hostTurn_write {s : State} {off : BitVec 10} {v : Word} {rest : List HostOp}
    (h : s.host = write32 off v :: rest) (ha : off.toNat % 4 = 0) :
    s.hostTurn = State.hostWrite { s with host := rest, resp := .done } (regAt off) v := by
  rw [hostTurn_access h]
  simp [State.access, ha]

/-- A write to CMD presents the command word. -/
theorem hostTurn_cmd {s : State} {c : Word} {rest : List HostOp} (h : s.host = write32 0x000 c :: rest) :
    s.hostTurn = State.present { s with host := rest, resp := .done } c := by
  rw [hostTurn_write h (by decide), show regAt 0x000 = some .cmd by decide]
  rfl

/-- A step of a busy core whose host's turn answers `u`. -/
theorem step_busy {s u : State} (hb : s.busy = true) (ht : s.hostTurn = .next u) : step s = .next u.tick := by
  simp [step, hb, ht]

/-- An accepted access is 32 bits wide and aligned; every other one is a bus error. -/
theorem access_bad (s : State) (a : Access) (h : ¬(a.bits = 32 ∧ a.off.toNat % 4 = 0)) :
    s.access a = .fault .busError := by
  simp [State.access, h]

/-- Presenting a command word always answers a next state. -/
theorem present_next (s : State) (c : Word) : ∃ t, s.present c = .next t := by
  unfold State.present
  split
  · exact ⟨_, rfl⟩
  · split
    · exact ⟨_, rfl⟩
    · split
      · exact ⟨_, rfl⟩
      · exact exec_next _ _

/-- A host write always answers a next state. -/
theorem hostWrite_next (s : State) (r : Option Reg) (v : Word) : ∃ t, s.hostWrite r v = .next t := by
  unfold State.hostWrite
  split
  · exact present_next s v
  · exact ⟨_, rfl⟩
  · split
    · exact ⟨_, rfl⟩
    · exact ⟨_, rfl⟩

end Sys2Proof.Machine
end

