-- ==== Sys2Proof/Laws/Decode.lean ====
section
/-! SUPPORT. What the decoder answers, opcode by opcode: `selectOp` at each value of OP, and `decode` from what
`selectOp` answers. -/

namespace Sys2Proof

section
variable (c : Word)

theorem selectOp_nop (h : (opField c).toNat = 0) : selectOp c = some .nop := by
  simp only [selectOp]; rw [h]; rfl
theorem selectOp_expandKey (h : (opField c).toNat = 1) : selectOp c = some .expandKey := by
  simp only [selectOp]; rw [h]; rfl
theorem selectOp_encrypt (h : (opField c).toNat = 2) : selectOp c = some .encrypt := by
  simp only [selectOp]; rw [h]; rfl
theorem selectOp_ctrKeystream (h : (opField c).toNat = 3) : selectOp c = some (.ctrKeystream (incField c)) := by
  simp only [selectOp]; rw [h]; rfl
theorem selectOp_ctrXor (h : (opField c).toNat = 4) : selectOp c = some (.ctrXor (lenField c) (incField c)) := by
  simp only [selectOp]; rw [h]; rfl
theorem selectOp_loadState (h : (opField c).toNat = 5) : selectOp c = some .loadState := by
  simp only [selectOp]; rw [h]; rfl
theorem selectOp_storeState (h : (opField c).toNat = 6) : selectOp c = some .storeState := by
  simp only [selectOp]; rw [h]; rfl
theorem selectOp_addRoundKey (h : (opField c).toNat = 7) : selectOp c = some (.addRoundKey (rndField c)) := by
  simp only [selectOp]; rw [h]; rfl
theorem selectOp_subBytes (h : (opField c).toNat = 8) : selectOp c = some .subBytes := by
  simp only [selectOp]; rw [h]; rfl
theorem selectOp_shiftRows (h : (opField c).toNat = 9) : selectOp c = some .shiftRows := by
  simp only [selectOp]; rw [h]; rfl
theorem selectOp_mixColumns (h : (opField c).toNat = 10) : selectOp c = some .mixColumns := by
  simp only [selectOp]; rw [h]; rfl
theorem selectOp_ctrLoadBlock (h : (opField c).toNat = 11) : selectOp c = some .ctrLoadBlock := by
  simp only [selectOp]; rw [h]; rfl
theorem selectOp_zeroize (h : (opField c).toNat = 12) : selectOp c = some .zeroize := by
  simp only [selectOp]; rw [h]; rfl

/-- R87: the opcodes 0x0D to 0xFF select nothing. -/
theorem selectOp_illegal (h : 0x0C < (opField c).toNat) : selectOp c = none := by
  unfold selectOp
  split <;> first | rfl | omega

end

/-- R87, R89: a word of an illegal opcode. -/
theorem decode_of_none {c : Word} (h : selectOp c = none) : decode c = .error .illegalOp := by
  simp [decode, h]

/-- R85, R89: an assigned opcode with a reserved bit set. -/
theorem decode_of_reserved {c : Word} {i : Instr} (h : selectOp c = some i)
    (hm : c &&& i.maskWord ≠ i.matchWord) : decode c = .error .reservedBits := by
  simp [decode, h, hm]

/-- R82, R83, R89: a word that fits its row, with an illegal field. -/
theorem decode_of_fieldError {c : Word} {i : Instr} {e : CmdError} (h : selectOp c = some i)
    (hm : c &&& i.maskWord = i.matchWord) (he : i.fieldError = some e) : decode c = .error e := by
  simp [decode, h, hm, he]

/-- R89: a word that fits its row, with legal fields. -/
theorem decode_of_match {c : Word} {i : Instr} (h : selectOp c = some i)
    (hm : c &&& i.maskWord = i.matchWord) (hf : i.fieldError = none) : decode c = .ok i := by
  simp [decode, h, hm, hf]

/-- R89: what an accepted word shows: it selects the command, fits its row, and its fields are legal. -/
theorem decode_eq_ok_iff {c : Word} {i : Instr} :
    decode c = .ok i ↔ selectOp c = some i ∧ c &&& i.maskWord = i.matchWord ∧ i.wf = true := by
  rw [← Machine.fieldError_eq_none_iff]
  constructor
  · intro h
    cases hs : selectOp c with
    | none => rw [decode_of_none hs] at h; cases h
    | some j =>
      by_cases hm : c &&& j.maskWord = j.matchWord
      · cases hf : j.fieldError with
        | none =>
          rw [decode_of_match hs hm hf] at h
          cases h
          exact ⟨rfl, hm, hf⟩
        | some e => rw [decode_of_fieldError hs hm hf] at h; cases h
      · rw [decode_of_reserved hs hm] at h; cases h
  · rintro ⟨hs, hm, hf⟩
    exact decode_of_match hs hm hf

end Sys2Proof
end

