-- ==== Sys2Proof/Laws/Asm.lean ====
section
/-! SUPPORT. What the host's accesses do when the core runs them one after another: one register write, the
groups of writes of R93, and a command with its poll. -/

namespace Sys2Proof.Machine

/-! ### Runs -/

/-- One step of a run. -/
theorem run_eq (s : State) (n : Nat) :
    core.run (n + 1) s = match step s with
      | .next t => core.run n t
      | .fault r => .fault r
      | .refused r => .refused r := by
  cases h : step s <;> simp [Host.Core.run, core, h]

theorem run_succ {s t : State} (h : step s = .next t) (n : Nat) : core.run (n + 1) s = core.run n t := by
  rw [run_eq, h]

/-- A run of one step or more begins with a step that answers a next state. -/
theorem step_of_run {s t : State} {n : Nat} (h : core.run (n + 1) s = .next t) :
    ∃ u, step s = .next u ∧ core.run n u = .next t := by
  rw [run_eq] at h
  cases hs : step s with
  | next u => rw [hs] at h; exact ⟨u, rfl, h⟩
  | fault r => rw [hs] at h; cases h
  | refused r => rw [hs] at h; cases h

/-- A run in two parts. -/
theorem run_add {s t : State} {m : Nat} (h : core.run m s = .next t) (n : Nat) :
    core.run (m + n) s = core.run n t := by
  induction m generalizing s with
  | zero => cases h; rw [Nat.zero_add]
  | succ m ih =>
    obtain ⟨u, hu, h⟩ := step_of_run h
    rw [Nat.add_right_comm, run_succ hu]
    exact ih h

/-! ### The register map and the byte lanes, both ways -/

theorem regAt_offset (r : Reg) : regAt r.offset = some r := by
  cases r with
  | cmd => rfl
  | status => rfl
  | ctrIndex => rfl
  | id => rfl
  | key j => revert j; decide
  | nonce j => revert j; decide
  | din j => revert j; decide
  | dout j => revert j; decide
  | state j => revert j; decide
  | w i => revert i; decide

theorem offset_aligned (r : Reg) : r.offset.toNat % 4 = 0 := by
  cases r with
  | cmd => rfl
  | status => rfl
  | ctrIndex => rfl
  | id => rfl
  | key j => revert j; decide
  | nonce j => revert j; decide
  | din j => revert j; decide
  | dout j => revert j; decide
  | state j => revert j; decide
  | w i => revert i; decide

section
variable (b0 b1 b2 b3 : Byte)
@[simp] theorem lane_pack_0 : lane (pack b0 b1 b2 b3) 0 = b0 := by
  ext i hi; interval_cases i <;> simp [lane, pack]
@[simp] theorem lane_pack_1 : lane (pack b0 b1 b2 b3) 1 = b1 := by
  ext i hi; interval_cases i <;> simp [lane, pack]
@[simp] theorem lane_pack_2 : lane (pack b0 b1 b2 b3) 2 = b2 := by
  ext i hi; interval_cases i <;> simp [lane, pack]
@[simp] theorem lane_pack_3 : lane (pack b0 b1 b2 b3) 3 = b3 := by
  ext i hi; interval_cases i <;> simp [lane, pack]
end

/-- The lane of a byte of a 16-byte register. -/
theorem lane_blockLane_of (b : Block) (i : Nat) (hi : i < 16) (j : Fin 4) (h : i / 4 = j.val) :
    lane (blockLane b j) (i % 4) = b[i] := by
  have hm : i % 4 = 0 ∨ i % 4 = 1 ∨ i % 4 = 2 ∨ i % 4 = 3 := by omega
  rcases hm with h' | h' | h' | h' <;> rw [h'] <;> simp only [blockLane, lane_pack_0, lane_pack_1, lane_pack_2,
    lane_pack_3] <;> congr 1 <;> omega

/-- The lane of a byte of KEY. -/
theorem lane_keyLane_of (k : Key) (i : Nat) (hi : i < 32) (j : Fin 8) (h : i / 4 = j.val) :
    lane (keyLane k j) (i % 4) = k[i] := by
  have hm : i % 4 = 0 ∨ i % 4 = 1 ∨ i % 4 = 2 ∨ i % 4 = 3 := by omega
  rcases hm with h' | h' | h' | h' <;> rw [h'] <;> simp only [keyLane, lane_pack_0, lane_pack_1, lane_pack_2,
    lane_pack_3] <;> congr 1 <;> omega

theorem setBlockLane_getElem (a : Block) (j : Fin 4) (v : Word) (i : Nat) (hi : i < 16) :
    (setBlockLane a j v)[i] = if i / 4 = j.val then lane v (i % 4) else a[i] := by
  simp [setBlockLane]

theorem setKeyLane_getElem (a : Key) (j : Fin 8) (v : Word) (i : Nat) (hi : i < 32) :
    (setKeyLane a j v)[i] = if i / 4 = j.val then lane v (i % 4) else a[i] := by
  simp [setKeyLane]

/-- Writing every lane of a 16-byte register with the lanes of `b` leaves `b`. -/
theorem setBlockLane_all (a b : Block) :
    setBlockLane (setBlockLane (setBlockLane (setBlockLane a 0 (blockLane b 0)) 1 (blockLane b 1))
      2 (blockLane b 2)) 3 (blockLane b 3) = b := by
  ext1 i hi
  have hq : i / 4 = 0 ∨ i / 4 = 1 ∨ i / 4 = 2 ∨ i / 4 = 3 := by omega
  have hb := lane_blockLane_of b i hi
  rcases hq with h | h | h | h <;> simp [setBlockLane_getElem, h] <;> exact hb _ h

/-- Writing every lane of KEY with the lanes of `k` leaves `k`. -/
theorem setKeyLane_all (a k : Key) :
    setKeyLane (setKeyLane (setKeyLane (setKeyLane (setKeyLane (setKeyLane (setKeyLane (setKeyLane a
      0 (keyLane k 0)) 1 (keyLane k 1)) 2 (keyLane k 2)) 3 (keyLane k 3)) 4 (keyLane k 4)) 5 (keyLane k 5))
      6 (keyLane k 6)) 7 (keyLane k 7) = k := by
  ext1 i hi
  have hq : i / 4 = 0 ∨ i / 4 = 1 ∨ i / 4 = 2 ∨ i / 4 = 3 ∨ i / 4 = 4 ∨ i / 4 = 5 ∨ i / 4 = 6 ∨ i / 4 = 7 := by
    omega
  have hk := lane_keyLane_of k i hi
  rcases hq with h | h | h | h | h | h | h | h <;> simp [setKeyLane_getElem, h] <;> exact hk _ h

/-! ### Register accesses of an idle core -/

/-- One register write. -/
theorem step_wr {s : State} {r : Reg} {v : Word} {rest : List HostOp} (hi : s.inflight = none)
    (h : s.host = Asm.wr r v :: rest) (hc : r ≠ .cmd) (hs : r ≠ .status) :
    step s = .next (State.writeReg { s with host := rest, resp := .done } (some r) v) := by
  rw [step_idle hi, hostTurn_write (off := r.offset) h (offset_aligned r), regAt_offset]
  cases r <;> first | contradiction | simp [State.hostWrite, State.busy, hi]

/-- One register read. -/
theorem step_rd {s : State} {r : Reg} {rest : List HostOp} (hi : s.inflight = none)
    (h : s.host = Asm.rd r :: rest) :
    step s = .next { s with host := rest, resp := .data (s.readReg (some r)) } := by
  rw [step_idle hi, hostTurn_read (off := r.offset) h (offset_aligned r), regAt_offset]
  cases r <;> simp [State.hostRead, State.busy, hi, State.readReg, State.statusWord]

/-! ### Groups of accesses -/

/-- What the register writes `l` of an idle core leave, the first one first. -/
def State.afterWrites : List (Reg × Word) → State → State
  | [], s => s
  | (r, v) :: l, s => State.afterWrites l (State.writeReg { s with host := s.host.tail, resp := .done } (some r) v)

/-- What the register reads `l` of an idle core leave. -/
def State.afterReads : List Reg → State → State
  | [], s => s
  | r :: l, s => State.afterReads l { s with host := s.host.tail, resp := .data (s.readReg (some r)) }

/-- Register writes of an idle core take one step each; CMD and STATUS are not among them. -/
theorem run_writes (l : List (Reg × Word)) (hl : ∀ p ∈ l, p.1 ≠ .cmd ∧ p.1 ≠ .status) {s : State}
    {rest : List HostOp} (hi : s.inflight = none) (h : s.host = l.map (fun p => Asm.wr p.1 p.2) ++ rest) :
    core.run l.length s = .next (State.afterWrites l s) := by
  induction l generalizing s with
  | nil => rfl
  | cons p l ih =>
    have hp := hl p (by simp)
    have ht : s.host.tail = l.map (fun p => Asm.wr p.1 p.2) ++ rest := by rw [h]; rfl
    refine (run_succ (step_wr hi h hp.1 hp.2) _).trans ?_
    simp only [State.afterWrites, ht]
    refine ih (fun q hq => hl q (by simp [hq])) ?_ ?_
    · rw [State.writeReg_inflight]; exact hi
    · rw [State.writeReg_host]; rfl

/-- Register reads of an idle core take one step each. -/
theorem run_reads (l : List Reg) {s : State} {rest : List HostOp} (hi : s.inflight = none)
    (h : s.host = l.map Asm.rd ++ rest) : core.run l.length s = .next (State.afterReads l s) := by
  induction l generalizing s with
  | nil => rfl
  | cons r l ih =>
    have ht : s.host.tail = l.map Asm.rd ++ rest := by rw [h]; rfl
    refine (run_succ (step_rd hi h) _).trans ?_
    simp only [State.afterReads, ht]
    exact ih hi rfl

/-- R93: `wrkey` by an idle core: KEY holds the key, and SCHED_VALID is 0. -/
theorem run_wrkey {s : State} {k : Key} {rest : List HostOp} (hi : s.inflight = none)
    (h : s.host = Asm.wrkey k ++ rest) :
    core.run 8 s = .next { s with key := k, schedValid := false, host := rest, resp := .done } := by
  refine (run_writes [(.key 0, keyLane k 0), (.key 1, keyLane k 1), (.key 2, keyLane k 2), (.key 3, keyLane k 3),
    (.key 4, keyLane k 4), (.key 5, keyLane k 5), (.key 6, keyLane k 6), (.key 7, keyLane k 7)]
    (by simp) hi h).trans ?_
  simp only [State.afterWrites, State.writeReg, setKeyLane_all, h]
  rfl

/-- R93: `wrnonce` by an idle core. -/
theorem run_wrnonce {s : State} {b : Block} {rest : List HostOp} (hi : s.inflight = none)
    (h : s.host = Asm.wrnonce b ++ rest) :
    core.run 4 s = .next { s with nonce := b, host := rest, resp := .done } := by
  refine (run_writes [(.nonce 0, blockLane b 0), (.nonce 1, blockLane b 1), (.nonce 2, blockLane b 2), (.nonce 3, blockLane b 3)]
    (by simp) hi h).trans ?_
  simp only [State.afterWrites, State.writeReg, setBlockLane_all, h]
  rfl

/-- R93: `wrdin` by an idle core. -/
theorem run_wrdin {s : State} {b : Block} {rest : List HostOp} (hi : s.inflight = none)
    (h : s.host = Asm.wrdin b ++ rest) :
    core.run 4 s = .next { s with din := b, host := rest, resp := .done } := by
  refine (run_writes [(.din 0, blockLane b 0), (.din 1, blockLane b 1), (.din 2, blockLane b 2), (.din 3, blockLane b 3)]
    (by simp) hi h).trans ?_
  simp only [State.afterWrites, State.writeReg, setBlockLane_all, h]
  rfl

/-- R93: `rdout` by an idle core: the last answer is DOUT word 3. -/
theorem run_rdout {s : State} {rest : List HostOp} (hi : s.inflight = none) (h : s.host = Asm.rdout ++ rest) :
    core.run 4 s = .next { s with host := rest, resp := .data (blockLane s.dout 3) } := by
  refine (run_reads [.dout 0, .dout 1, .dout 2, .dout 3] hi h).trans ?_
  simp only [State.afterReads, h]
  rfl

/-- R273 step 5: the STATUS value says that the session ran clean exactly when ERR = 0. -/
@[simp] theorem ranClean_statusWord (s : State) : Asm.ranClean s.statusWord = !s.err := by
  cases he : s.err <;> simp [Asm.ranClean, State.statusWord, he]

end Sys2Proof.Machine
end

