-- ==== Sys2Proof/Laws/PerInstr.lean ====
section
/-! SUPPORT. Facts about the instruction as syntax, one lemma per constructor. -/

namespace Sys2Proof.Laws.EncodedWordFitsRow

/-- R86: the encoded word of a command lies in its row of the opcode table: `c & mask = match`. -/
def Statement (i : Instr) : Prop := encode i &&& i.maskWord = i.matchWord

theorem nop : Statement .nop := by unfold Statement; decide
theorem expandKey : Statement .expandKey := by unfold Statement; decide
theorem encrypt : Statement .encrypt := by unfold Statement; decide
theorem ctrKeystream (inc : Bool) : Statement (.ctrKeystream inc) := by
  unfold Statement; revert inc; decide
theorem ctrXor (len : BitVec 5) (inc : Bool) : Statement (.ctrXor len inc) := by
  unfold Statement; revert len inc; decide
theorem loadState : Statement .loadState := by unfold Statement; decide
theorem storeState : Statement .storeState := by unfold Statement; decide
theorem addRoundKey (rnd : BitVec 4) : Statement (.addRoundKey rnd) := by
  unfold Statement; revert rnd; decide
theorem subBytes : Statement .subBytes := by unfold Statement; decide
theorem shiftRows : Statement .shiftRows := by unfold Statement; decide
theorem mixColumns : Statement .mixColumns := by unfold Statement; decide
theorem ctrLoadBlock : Statement .ctrLoadBlock := by unfold Statement; decide
theorem zeroize : Statement .zeroize := by unfold Statement; decide

end Sys2Proof.Laws.EncodedWordFitsRow
end

