-- ==== Sys2Proof/Certificates/Slice0/Obligations.lean ====
section
/-! DEFINITION. What is claimed of the model, from the numbered rules of spec/. -/

open Sys2Proof Sys2Proof.Machine

/-! ### Reset and the invariant -/

/-- R37: the value of every piece of state after reset. -/
def Obligations.ResetHoldsTheResetValues : Prop :=
  (∀ i : Fin 32, State.reset.key[i] = 0) ∧
  (∀ i : Fin 16, State.reset.nonce[i] = 0 ∧ State.reset.din[i] = 0 ∧ State.reset.dout[i] = 0 ∧
    State.reset.state[i] = 0) ∧
  (∀ (i : Fin 60) (k : Fin 4), State.reset.w[i][k] = 0) ∧
  State.reset.ctrIndex = 0 ∧ State.reset.busy = false ∧ State.reset.schedValid = false ∧
  State.reset.err = false ∧ State.reset.errCode = 0 ∧ State.reset.inflight = none ∧
  State.reset.readReg (some .id) = 0x4B524131

/-- The invariant holds after reset. -/
def Obligations.ResetMeetsTheInvariant : Prop := State.reset.Inv

/-- R29, R240, R241, R242, R244, R277: every step of the machine keeps the invariant: a valid schedule is the
schedule of KEY, the in-flight snapshot equals the live registers, an in-flight command was acceptable, and
ERRCODE is a produced code that is 0 exactly while ERR = 0. -/
def Obligations.EveryStepKeepsTheInvariant : Prop :=
  ∀ s t : State, s.Inv → step s = .next t → t.Inv

/-- R270, R272: a reset, also while a command is in flight, leaves every register at its reset value. That the
host's side and the model's own fields stay is the model's choice (log entry 13). -/
def Obligations.ResetAbandonsTheInFlightCommand : Prop :=
  ∀ (s : State) (rest : List HostOp), s.host = .reset :: rest →
    step s = .next { State.reset with
      host := rest, resp := s.resp, nextLatency := s.nextLatency, draws := s.draws }

/-- R271: an idle core whose host issues nothing stays as it is. That a step then passes is the model's choice
(log entry 10). -/
def Obligations.IdleCoreWaits : Prop :=
  ∀ s : State, s.inflight = none → s.host = [] → step s = .next s

/-! ### Encoding -/

/-- R85, R86, R88: the decoder accepts exactly the encoded words of the well-formed commands, and reads each
as the command it encodes. The reserved-bit check is that of R86 and R89, not of the last sentence of R85 (log
entry 18). -/
def Obligations.DecoderAcceptsExactlyTheEncodedWords : Prop :=
  ∀ (c : Word) (i : Instr), decode c = .ok i ↔ i.wf = true ∧ encode i = c

/-- R89: the decoder's checks in their order, on every word; `ops` are the commands of R86 with the fields of
the word, `mask` is the mask column. -/
def Obligations.DecoderChecksInTheOrderOfR89 : Prop :=
  ∀ c : Word,
    let op := (c.extractLsb' 0 8).toNat
    let rnd : BitVec 4 := c.extractLsb' 8 4
    let len : BitVec 5 := c.extractLsb' 16 5
    let inc := c.getLsbD 24
    let mask : Word :=
      if op = 0x03 then 0xFEFFFFFF else if op = 0x04 then 0xFEE0FFFF
      else if op = 0x07 then 0xFFFFF0FF else 0xFFFFFFFF
    let ops : List Instr :=
      [.nop, .expandKey, .encrypt, .ctrKeystream inc, .ctrXor len inc, .loadState, .storeState,
       .addRoundKey rnd, .subBytes, .shiftRows, .mixColumns, .ctrLoadBlock, .zeroize]
    let badRound := op = 0x07 ∧ rnd.toNat > 14
    let badLen := op = 0x04 ∧ (len.toNat = 0 ∨ len.toNat > 16)
    (op > 0x0C → decode c = .error .illegalOp) ∧
    (op ≤ 0x0C → c &&& mask ≠ BitVec.ofNat 32 op → decode c = .error .reservedBits) ∧
    (c &&& mask = BitVec.ofNat 32 op → badRound → decode c = .error .badRound) ∧
    (c &&& mask = BitVec.ofNat 32 op → badLen → decode c = .error .badLen) ∧
    (op ≤ 0x0C → c &&& mask = BitVec.ofNat 32 op → ¬badRound → ¬badLen →
      ∃ i, ops[op]? = some i ∧ decode c = .ok i)

/-- R86, R90: words written out from the encoding strings decode to their commands. -/
def Obligations.SpecEncodedWordsDecode : Prop :=
  decode 0x00000000 = .ok .nop ∧
  decode 0x00000001 = .ok .expandKey ∧
  decode 0x00000E07 = .ok (.addRoundKey 14) ∧
  decode 0x01100004 = .ok (.ctrXor 16 true) ∧
  decode 0x00040004 = .ok (.ctrXor 4 false) ∧
  decode 0x01000003 = .ok (.ctrKeystream true) ∧
  decode 0x0000000C = .ok .zeroize

/-! ### Presenting a command, its errors, its completion -/

/-- R33, R240: the step in which the host writes a command word to CMD of an idle core. `s.atCommand rest` is
`s` with that write taken off the host's list and the command's latency drawn. With latency 0, or where the
command raises an error, the step is `exec` of the decoded command; with latency k + 1 an acceptable command
goes in flight with a snapshot of the registers. When a latency is drawn is the model's choice (log entry 8),
and so is what one step is (log entry 7). -/
def Obligations.StepRunsTheDecodedCommand : Prop :=
  ∀ (s : State) (c : Word) (i : Instr) (rest : List HostOp),
    s.inflight = none → s.host = write32 0x000 c :: rest → decode c = .ok i →
    (s.nextLatency = 0 ∨ ¬s.Ready i → step s = exec i (s.atCommand rest)) ∧
    (∀ k, s.nextLatency = k + 1 → s.Ready i →
      step s = .next { s.atCommand rest with
        inflight := some { cmd := i, snap := s.live, stepsLeft := k } })

/-- R85, R87, R240, R244: a word the decoder rejects is not accepted; its error is recorded, and nothing else
of the core changes. -/
def Obligations.RejectedWordOnlyRecordsItsError : Prop :=
  ∀ (s : State) (c : Word) (e : CmdError) (rest : List HostOp),
    s.inflight = none → s.host = write32 0x000 c :: rest → decode c = .error e →
    step s = .next (State.cmdError { s with host := rest, resp := .done } e)

/-- R241, R244: what raising an error records: its code, if no error is recorded since the last clear; and
nothing else changes. -/
def Obligations.FirstErrorIsKept : Prop :=
  ∀ s : State,
    (s.err = true → ∀ e, s.cmdError e = s) ∧
    (s.err = false →
      s.cmdError .illegalOp = { s with err := true, errCode := 1 } ∧
      s.cmdError .reservedBits = { s with err := true, errCode := 2 } ∧
      s.cmdError .badRound = { s with err := true, errCode := 3 } ∧
      s.cmdError .badLen = { s with err := true, errCode := 4 } ∧
      s.cmdError .noSchedule = { s with err := true, errCode := 5 } ∧
      s.cmdError .busy = { s with err := true, errCode := 6 })

/-- R240, R243: presenting a word to the core raises the first error that applies, and a command that raises
none is accepted with the latency drawn for it. When a latency is drawn is the model's choice (log entry 8). -/
def Obligations.PresentedWordRaisesTheFirstErrorThatApplies : Prop :=
  ∀ (s : State) (c : Word),
    (s.inflight ≠ none → s.present c = .next (s.cmdError .busy)) ∧
    (s.inflight = none →
      (∀ e, decode c = .error e → s.present c = .next (s.cmdError e)) ∧
      (∀ i, decode c = .ok i →
        (needsSchedule i = true → s.schedValid = false →
          s.present c = .next (s.drawLatency.cmdError .noSchedule)) ∧
        ((needsSchedule i = true → s.schedValid = true) →
          (s.nextLatency = 0 → s.present c = .next (applyWrites i s.live s.drawLatency)) ∧
          (∀ k, s.nextLatency = k + 1 → s.present c = .next (s.drawLatency.accept i k)))))

/-- R242: each of the four commands that read W raises NO_SCHEDULE while SCHED_VALID = 0, and has no other
effect. -/
def Obligations.ScheduleCommandsRaiseNoSchedule : Prop :=
  ∀ s : State, s.inflight = none → s.schedValid = false →
    exec .encrypt s = .next (s.cmdError .noSchedule) ∧
    (∀ inc, exec (.ctrKeystream inc) s = .next (s.cmdError .noSchedule)) ∧
    (∀ len inc, 1 ≤ len.toNat → len.toNat ≤ 16 →
      exec (.ctrXor len inc) s = .next (s.cmdError .noSchedule)) ∧
    (∀ rnd, rnd.toNat ≤ 14 → exec (.addRoundKey rnd) s = .next (s.cmdError .noSchedule))

/-- R82, R83, R241: RND = 15 and LEN outside 1..16 raise their errors, and the command has no other effect;
any command presented while another is in flight raises BUSY and has no other effect. What `exec` answers for a
term that no word decodes to, and for any term while a command is in flight, is the model's choice (log entry 9). -/
def Obligations.IllegalOperandsAndBusyRaiseTheirErrors : Prop :=
  ∀ s : State,
    (s.inflight = none →
      exec (.addRoundKey 15) s = .next (s.cmdError .badRound) ∧
      (∀ len inc, len.toNat = 0 ∨ 16 < len.toNat → exec (.ctrXor len inc) s = .next (s.cmdError .badLen))) ∧
    (s.inflight ≠ none → ∀ i, exec i s = .next (s.cmdError .busy))

/-- R33, R277: the last step of an in-flight command applies exactly the writes that the command, run at once
on the core as it stands, makes; every earlier step only counts. The count of steps is the model's reading of
"host-observable step" (log entry 7). -/
def Obligations.CompletionAppliesTheCommandsWrites : Prop :=
  ∀ (s : State) (f : InFlight), s.inflight = some f →
    (s.Inv → f.stepsLeft = 0 → exec f.cmd { s with inflight := none } = .next s.tick) ∧
    (∀ k, f.stepsLeft = k + 1 → s.tick = { s with inflight := some { f with stepsLeft := k } })

/-- R33, R63, R280: at every latency, a command word written to CMD and then polled for has, when the poll
ends, exactly the effect of `exec` on the registers and the error record. The number of steps is the model's
(log entry 7); it holds for every latency. -/
def Obligations.PolledCommandHasItsEffectAtEveryLatency : Prop :=
  ∀ (s : State) (c : Word) (i : Instr) (rest : List HostOp),
    s.inflight = none → s.host = write32 0x000 c :: .poll :: rest → decode c = .ok i → s.Ready i →
    ∃ t u, core.run (s.nextLatency + 2) s = .next t ∧ exec i s = .next u ∧
      t.key = u.key ∧ t.nonce = u.nonce ∧ t.din = u.din ∧ t.dout = u.dout ∧ t.state = u.state ∧ t.w = u.w ∧
      t.ctrIndex = u.ctrIndex ∧ t.schedValid = u.schedValid ∧ t.err = u.err ∧ t.errCode = u.errCode ∧
      t.inflight = none ∧ t.host = rest ∧ t.resp = .data t.statusWord

/-- R281: every accepted command completes, and a poll loop ends: from any state with a command in flight
and `stepsLeft` more steps to count. It rests on the spec's own assumption that every latency is finite (log
entry 3), and the exact number of steps is the model's choice (log entry 7). -/
def Obligations.PollLoopEnds : Prop :=
  ∀ (s : State) (f : InFlight) (rest : List HostOp),
    s.inflight = some f → s.host = .poll :: rest →
    ∃ t, core.run (f.stepsLeft + 2) s = .next t ∧ t.inflight = none ∧ t.host = rest ∧
      t.resp = .data t.statusWord ∧ t.statusWord.getLsbD 0 = false

/-- R93: one turn of `poll`: it reads STATUS, and is repeated while the value read has BUSY = 1. That the read
comes first and the command in flight then advances in the same step is the model's choice (log entry 7). -/
def Obligations.PollRepeatsWhileBusy : Prop :=
  ∀ (s : State) (rest : List HostOp), s.host = .poll :: rest →
    (s.inflight = none →
      s.statusWord.getLsbD 0 = false ∧
      step s = .next { s with host := rest, resp := .data s.statusWord }) ∧
    (s.inflight ≠ none →
      s.statusWord.getLsbD 0 = true ∧
      step s = .next (State.tick { s with resp := .data s.statusWord }))

/-! ### The host's accesses -/

/-- R55, R56, R57, R58, R61: an aligned 32-bit read of an idle core answers the register at the offset, in
the byte lanes of R54, and has no side effect. -/
def Obligations.IdleReadAnswersTheRegister : Prop :=
  ∀ (s : State) (off : BitVec 10) (rest : List HostOp),
    s.inflight = none → s.host = read32 off :: rest → off.toNat % 4 = 0 →
    ∃ v : Word, step s = .next { s with host := rest, resp := .data v } ∧
      (off.toNat = 0x000 → v = 0) ∧
      (off.toNat = 0x004 → v = s.statusWord) ∧
      (off.toNat = 0x008 → v = s.ctrIndex) ∧
      (off.toNat = 0x00C → v = 0x4B524131) ∧
      (∀ j : Fin 8, off.toNat = 0x020 + 4 * j.val →
        ∀ b : Fin 4, v.extractLsb' (8 * b.val) 8 = s.key[4 * j.val + b.val]) ∧
      (∀ j : Fin 4, ∀ b : Fin 4,
        (off.toNat = 0x040 + 4 * j.val → v.extractLsb' (8 * b.val) 8 = s.nonce[4 * j.val + b.val]) ∧
        (off.toNat = 0x050 + 4 * j.val → v.extractLsb' (8 * b.val) 8 = s.din[4 * j.val + b.val]) ∧
        (off.toNat = 0x060 + 4 * j.val → v.extractLsb' (8 * b.val) 8 = s.dout[4 * j.val + b.val]) ∧
        (off.toNat = 0x070 + 4 * j.val → v.extractLsb' (8 * b.val) 8 = s.state[4 * j.val + b.val])) ∧
      (∀ i : Fin 60, off.toNat = 0x100 + 4 * i.val →
        ∀ b : Fin 4, v.extractLsb' (8 * b.val) 8 = s.w[i][b]) ∧
      ((0x010 ≤ off.toNat ∧ off.toNat < 0x020) ∨ (0x080 ≤ off.toNat ∧ off.toNat < 0x100) ∨
        0x1F0 ≤ off.toNat → v = 0)

/-- R22, R55, R56, R57, R58: an aligned 32-bit write to an idle core, other than to CMD and STATUS, stores the
register at the offset in the byte lanes of R54; a KEY write clears SCHED_VALID; a write to a read-only
register or a reserved offset changes nothing; nothing else of the core changes. -/
def Obligations.IdleWriteStoresTheRegister : Prop :=
  ∀ (s : State) (off : BitVec 10) (v : Word) (rest : List HostOp),
    s.inflight = none → s.host = write32 off v :: rest → off.toNat % 4 = 0 → 0x008 ≤ off.toNat →
    ∃ t : State, step s = .next t ∧
      t = { s with
        ctrIndex := t.ctrIndex, key := t.key, schedValid := t.schedValid, nonce := t.nonce, din := t.din
        host := rest, resp := .done } ∧
      t.ctrIndex = (if off.toNat = 0x008 then v else s.ctrIndex) ∧
      t.schedValid = (if 0x020 ≤ off.toNat ∧ off.toNat < 0x040 then false else s.schedValid) ∧
      (∀ (j : Fin 8) (b : Fin 4), t.key[4 * j.val + b.val] =
        if off.toNat = 0x020 + 4 * j.val then v.extractLsb' (8 * b.val) 8 else s.key[4 * j.val + b.val]) ∧
      (∀ (j : Fin 4) (b : Fin 4),
        (t.nonce[4 * j.val + b.val] =
          if off.toNat = 0x040 + 4 * j.val then v.extractLsb' (8 * b.val) 8
          else s.nonce[4 * j.val + b.val]) ∧
        (t.din[4 * j.val + b.val] =
          if off.toNat = 0x050 + 4 * j.val then v.extractLsb' (8 * b.val) 8
          else s.din[4 * j.val + b.val]))

/-- R31: the fields of STATUS as read; a write with bit 2 set clears ERR and ERRCODE, one with bit 2 clear
changes nothing, also while BUSY; no command's completion changes ERR or ERRCODE. What one step is, and that a
command in flight advances in it after the write, is the model's choice (log entry 7). -/
def Obligations.StatusRegisterReadsAndClears : Prop :=
  (∀ s : State,
    s.statusWord.getLsbD 0 = s.inflight.isSome ∧ s.statusWord.getLsbD 1 = s.schedValid ∧
    s.statusWord.getLsbD 2 = s.err ∧ s.statusWord.getLsbD 3 = false ∧
    s.statusWord.extractLsb' 4 4 = s.errCode ∧ ∀ i, 8 ≤ i → s.statusWord.getLsbD i = false) ∧
  (∀ (s : State) (v : Word) (rest : List HostOp), s.host = write32 0x004 v :: rest →
    step s = .next (State.tick { s with
      host := rest, resp := .done
      err := if v.getLsbD 2 then false else s.err
      errCode := if v.getLsbD 2 then 0 else s.errCode })) ∧
  (∀ s : State, s.tick.err = s.err ∧ s.tick.errCode = s.errCode)

/-- R60: the four kinds of access while a command is in flight. The value of a data read is the free value
`Config.busyRead s.draws`, and its counter is the model's choice (log entry 4); `State.tick` is the progress of
the in-flight command, and that it follows the access in the same step is the model's choice (log entry 7). -/
def Obligations.AccessesWhileBusy : Prop :=
  ∀ (s : State) (off : BitVec 10) (rest : List HostOp),
    s.inflight ≠ none → off.toNat % 4 = 0 →
    (s.host = read32 off :: rest →
      (regAt off ∈ [none, some .cmd, some .status, some .id] →
        step s = .next (State.tick { s with host := rest, resp := .data (s.readReg (regAt off)) }) ∧
        s.statusWord.getLsbD 0 = true) ∧
      (regAt off ∉ [none, some .cmd, some .status, some .id] →
        step s = .next (State.tick { s with
          host := rest, resp := .data (Config.busyRead s.draws), draws := s.draws + 1 }))) ∧
    (∀ v, s.host = write32 off v :: rest →
      (off = 0x004 →
        step s = .next (State.tick (State.writeStatus { s with host := rest, resp := .done } v))) ∧
      (off ≠ 0x004 →
        step s = .next (State.tick (State.cmdError { s with host := rest, resp := .done } .busy))))

/-- R277: a write while BUSY is dropped: no register changes in any step but the command's last one, and
there only by the command's own writes from its snapshot. That a write in the last step still sees BUSY, is
dropped, and the completion follows in the same step, is the model's choice (log entry 7). -/
def Obligations.WritesWhileBusyAreDropped : Prop :=
  ∀ (s t : State) (f : InFlight) (off : BitVec 10) (v : Word) (rest : List HostOp),
    s.inflight = some f → s.host = write32 off v :: rest → step s = .next t →
    (f.stepsLeft ≠ 0 → t.live = s.live ∧ t.dout = s.dout ∧ t.schedValid = s.schedValid) ∧
    (f.stepsLeft = 0 →
      t.live = (applyWrites f.cmd f.snap s).live ∧ t.dout = (applyWrites f.cmd f.snap s).dout ∧
      t.schedValid = (applyWrites f.cmd f.snap s).schedValid)

/-- R53, R247: an access by offset faults with a bus error exactly when it is not 32 bits wide or not 4-byte
aligned, idle or busy; no step is refused. That the run ends there is the model's form of a host fault (log
entry 5). -/
def Obligations.OnlyBadAccessesGetABusError : Prop :=
  (∀ (s : State) (a : Access) (rest : List HostOp), s.host = .access a :: rest →
    (step s = .fault .busError ↔ a.bits ≠ 32 ∨ a.off.toNat % 4 ≠ 0)) ∧
  (∀ s : State, s.host = [] ∨ (∃ rest, s.host = .poll :: rest) ∨ (∃ rest, s.host = .reset :: rest) →
    ∃ t, step s = .next t) ∧
  (∀ s : State, (∃ t, step s = .next t) ∨ step s = .fault .busError)

/-- R51: a bus address in the window, for every `BASE`, reaches the core at its offset from `BASE`; one
outside does not reach the core. `BASE` is a multiple of 0x400. What the host sees of an access outside is the
model's choice (log entry 11), and so is that a command in flight advances in that step (log entry 7). -/
def Obligations.WindowDecodesBusAddresses : Prop :=
  Config.base % 0x400 = 0 ∧
  ∀ (s : State) (kind : AccessKind) (bits addr : Nat) (rest : List HostOp),
    s.host = .busAccess kind bits addr :: rest →
    (∀ off : BitVec 10, addr = Config.base + off.toNat →
      step s = step { s with host := .access { kind := kind, bits := bits, off := off } :: rest }) ∧
    (addr < Config.base ∨ Config.base + 0x400 ≤ addr →
      step s = .next (State.tick { s with host := rest, resp := .notSelected }))

/-! ### Arithmetic and the S-box -/

/-- R100, R102: doubling modulo the polynomial 0x11B, on numbers. -/
def Obligations.XtimeDoublesModulo0x11B : Prop :=
  ∀ a : Byte, (xtime a).toNat =
    if 2 * a.toNat < 0x100 then 2 * a.toNat else (2 * a.toNat) ^^^ 0x11B

/-- R105, R106: the multiply tables hold the products by 2 and by 3. -/
def Obligations.MultiplyTablesHoldTheProducts : Prop :=
  ∀ a : Byte, tableEntry mul2Rows a = xtime a ∧ tableEntry mul3Rows a = xtime a ^^^ a

/-- R109: the properties of SBOX. -/
def Obligations.SboxIsAPermutationWithoutFixedPoints : Prop :=
  (∀ a b : Byte, sbox a = sbox b → a = b) ∧
  (∀ a : Byte, sbox a ≠ a ∧ sbox a ≠ a ^^^ 0xFF) ∧
  sbox 0x00 = 0x63 ∧ sbox 0x01 = 0x7C ∧ sbox 0x53 = 0xED ∧ sbox 0x80 = 0xCD ∧ sbox 0xFF = 0x16

/-- R104, R108: the table is the affine map of the inverse in GF(2^8): `inv 0` is 0 and `a • inv a` is 0x01 for
every other `a`. -/
def Obligations.SboxIsTheAffineMapOfTheInverse : Prop :=
  (∃ inv : Byte → Byte, inv 0 = 0 ∧ (∀ a, a ≠ 0 → gmul a (inv a) = 1) ∧ ∀ a, sbox a = affine (inv a)) ∧
  (∀ (b : Byte) (i : Fin 8), (affine b).getLsbD i.val =
    (b.getLsbD i.val ^^ b.getLsbD ((i.val + 4) % 8) ^^ b.getLsbD ((i.val + 5) % 8) ^^
      b.getLsbD ((i.val + 6) % 8) ^^ b.getLsbD ((i.val + 7) % 8) ^^ (0x63 : Byte).getLsbD i.val))

/-! ### The key schedule -/

/-- R130, R134: the words of the expanded key: the first eight are the key bytes in order, and each later one
follows from the words eight and one before it. -/
def Obligations.KeyExpansionFollowsTheWordRule : Prop :=
  ∀ (key : Key) (w : Schedule), w = keyExpansion key →
    (∀ (i : Fin 8) (k : Fin 4), w[i.val][k] = key[4 * i.val + k.val]) ∧
    (∀ (i : Nat) (h8 : 8 ≤ i) (h60 : i < 60),
      (i % 8 = 0 → ∀ k : Fin 4, w[i][k] =
        w[i - 8][k] ^^^ sbox (w[i - 1][(k.val + 1) % 4]) ^^^ (if k.val = 0 then 1 <<< (i / 8 - 1) else 0)) ∧
      (i % 8 = 4 → ∀ k : Fin 4, w[i][k] = w[i - 8][k] ^^^ sbox (w[i - 1][k])) ∧
      (i % 8 ≠ 0 → i % 8 ≠ 4 → ∀ k : Fin 4, w[i][k] = w[i - 8][k] ^^^ w[i - 1][k]))

/-- R139, R140: EXPAND_KEY writes the schedule of KEY and sets SCHED_VALID, and changes nothing else. -/
def Obligations.ExpandKeyWritesTheSchedule : Prop :=
  ∀ s : State, s.Ready .expandKey →
    exec .expandKey s = .next { s with w := keyExpansion s.key, schedValid := true }

/-! ### The round transform -/

/-- R165: Cipher: round key 0, thirteen rounds of the four primitives, and a last round without MixColumns.
`b r` is the block after round `r`. -/
def Obligations.CipherRunsFourteenRounds : Prop :=
  ∀ (blk : Block) (w : Schedule), ∃ b : Nat → Block,
    b 0 = addRoundKey blk (roundKey w 0) ∧
    (∀ r : Fin 15, 1 ≤ r.val → r.val ≤ 13 →
      b r.val = addRoundKey (mixColumns (shiftRows (subBytes (b (r.val - 1))))) (roundKey w r)) ∧
    cipher blk w = addRoundKey (shiftRows (subBytes (b 13))) (roundKey w 14)

/-- R170: ENCRYPT writes the cipher of DIN to STATE and DOUT, and changes nothing else. -/
def Obligations.EncryptWritesTheCipherOfDin : Prop :=
  ∀ s : State, s.Ready .encrypt →
    exec .encrypt s = .next { s with state := cipher s.din s.w, dout := cipher s.din s.w }

/-- R171, R172: LOAD_STATE copies DIN to STATE, STORE_STATE copies STATE to DOUT, and neither changes anything
else. -/
def Obligations.LoadAndStoreStateCopyTheBlock : Prop :=
  ∀ s : State,
    (s.Ready .loadState → exec .loadState s = .next { s with state := s.din }) ∧
    (s.Ready .storeState → exec .storeState s = .next { s with dout := s.state })

/-- R138, R161, R173: ADD_ROUND_KEY rnd=r XORs the 16 bytes of words 4r to 4r+3 into STATE, byte for byte, for
every r from 0 to 14, and changes nothing else. -/
def Obligations.AddRoundKeyXorsTheRoundKey : Prop :=
  ∀ (s : State) (r : Fin 15), s.Ready (.addRoundKey (BitVec.ofNat 4 r.val)) →
    ∃ t, exec (.addRoundKey (BitVec.ofNat 4 r.val)) s = .next t ∧ t = { s with state := t.state } ∧
      ∀ k : Fin 16, t.state[k] = s.state[k] ^^^ s.w[4 * r.val + k.val / 4][k.val % 4]

/-- R162: SUB_BYTES replaces each byte of STATE by its S-box entry, and changes nothing else. -/
def Obligations.SubBytesReplacesEachByte : Prop :=
  ∀ s : State, s.Ready .subBytes →
    ∃ t, exec .subBytes s = .next t ∧ t = { s with state := t.state } ∧
      ∀ i : Fin 16, t.state[i] = sbox s.state[i]

/-- R163: SHIFT_ROWS rotates row r left by r positions, and changes nothing else. -/
def Obligations.ShiftRowsRotatesEachRow : Prop :=
  ∀ s : State, s.Ready .shiftRows →
    ∃ t, exec .shiftRows s = .next t ∧ t = { s with state := t.state } ∧
      ∀ r c : Fin 4, t.state[r.val + 4 * c.val] = s.state[r.val + 4 * ((c.val + r.val) % 4)]

/-- R164: MIX_COLUMNS replaces each column by the matrix product over GF(2^8), all four bytes from the old
column, and changes nothing else. -/
def Obligations.MixColumnsMixesEachColumn : Prop :=
  ∀ s : State, s.Ready .mixColumns →
    ∃ t, exec .mixColumns s = .next t ∧ t = { s with state := t.state } ∧
      ∀ c : Fin 4,
        let s0 := s.state[4 * c.val]
        let s1 := s.state[4 * c.val + 1]
        let s2 := s.state[4 * c.val + 2]
        let s3 := s.state[4 * c.val + 3]
        t.state[4 * c.val] = xtime s0 ^^^ (xtime s1 ^^^ s1) ^^^ s2 ^^^ s3 ∧
        t.state[4 * c.val + 1] = s0 ^^^ xtime s1 ^^^ (xtime s2 ^^^ s2) ^^^ s3 ∧
        t.state[4 * c.val + 2] = s0 ^^^ s1 ^^^ xtime s2 ^^^ (xtime s3 ^^^ s3) ∧
        t.state[4 * c.val + 3] = (xtime s0 ^^^ s0) ^^^ s1 ^^^ s2 ^^^ xtime s3

/-- R177: the step commands, in the cipher's order, leave exactly what ENCRYPT leaves. -/
def Obligations.StepCommandsComposeToEncrypt : Prop :=
  ∀ s : State, s.Ready .encrypt → runCommands Asm.stepCommands s = exec .encrypt s

/-- R161, R173, R175: ADD_ROUND_KEY twice with one r restores STATE, and so do four SHIFT_ROWS. -/
def Obligations.RoundKeyAndRowShiftsUndoThemselves : Prop :=
  (∀ (s : State) (r : BitVec 4), s.Ready (.addRoundKey r) →
    runCommands [.addRoundKey r, .addRoundKey r] s = .next s) ∧
  (∀ s : State, s.inflight = none →
    runCommands [.shiftRows, .shiftRows, .shiftRows, .shiftRows] s = .next s)

/-! ### CTR mode -/

/-- R200: CTR_LOAD_BLOCK puts into STATE the nonce with the big-endian block index XORed into bytes 0..3 only,
and changes nothing else. -/
def Obligations.CounterBlockXorsTheIndexIntoFourBytes : Prop :=
  ∀ s : State, s.Ready .ctrLoadBlock →
    ∃ t, exec .ctrLoadBlock s = .next t ∧ t = { s with state := t.state } ∧
      t.state[0] = s.nonce[0] ^^^ s.ctrIndex.extractLsb' 24 8 ∧
      t.state[1] = s.nonce[1] ^^^ s.ctrIndex.extractLsb' 16 8 ∧
      t.state[2] = s.nonce[2] ^^^ s.ctrIndex.extractLsb' 8 8 ∧
      t.state[3] = s.nonce[3] ^^^ s.ctrIndex.extractLsb' 0 8 ∧
      ∀ k : Fin 16, 4 ≤ k.val → t.state[k] = s.nonce[k]

/-- R200, R207: for one nonce, two block indexes give the same counter block only if they are the same. -/
def Obligations.CounterBlockIsOneToOneInTheIndex : Prop :=
  ∀ (nonce : Block) (n m : Word), counterBlock nonce n = counterBlock nonce m → n = m

/-- R30, R201, R203: CTR_KEYSTREAM writes the keystream block to STATE and DOUT, adds 1 to CTR_INDEX modulo
2^32 when INC = 1, and changes nothing else. -/
def Obligations.CtrKeystreamWritesTheKeystream : Prop :=
  ∀ (s : State) (inc : Bool), s.Ready (.ctrKeystream inc) →
    exec (.ctrKeystream inc) s = .next { s with
      state := cipher (counterBlock s.nonce s.ctrIndex) s.w
      dout := cipher (counterBlock s.nonce s.ctrIndex) s.w
      ctrIndex := if inc then BitVec.ofNat 32 ((s.ctrIndex.toNat + 1) % 2 ^ 32) else s.ctrIndex }

/-- R201, R204: CTR_XOR writes the first L data bytes XORed with the keystream to DOUT and 0 beyond, the whole
keystream block to STATE, adds 1 to CTR_INDEX modulo 2^32 when INC = 1, and changes nothing else. -/
def Obligations.CtrXorWritesTheMaskedBlock : Prop :=
  ∀ (s : State) (len : BitVec 5) (inc : Bool), s.Ready (.ctrXor len inc) →
    ∃ t, exec (.ctrXor len inc) s = .next t ∧
      t = { s with state := t.state, dout := t.dout, ctrIndex := t.ctrIndex } ∧
      t.state = cipher (counterBlock s.nonce s.ctrIndex) s.w ∧
      t.ctrIndex = (if inc then BitVec.ofNat 32 ((s.ctrIndex.toNat + 1) % 2 ^ 32) else s.ctrIndex) ∧
      ∀ j : Fin 16, t.dout[j] = if j.val < len.toNat then s.din[j] ^^^ t.state[j] else 0

/-- R202: applying CTR_XOR to its own output, with the same NONCE, W, index and L, restores the data bytes. -/
def Obligations.CtrXorTwiceRestoresTheData : Prop :=
  ∀ (s t : State) (len : BitVec 5) (inc inc' : Bool), s.Ready (.ctrXor len inc) →
    exec (.ctrXor len inc) s = .next t →
    ∃ u, exec (.ctrXor len inc') { t with din := t.dout, ctrIndex := s.ctrIndex } = .next u ∧
      ∀ j : Fin 16, j.val < len.toNat → u.dout[j] = s.din[j]

/-! ### Control commands and whole-machine rules -/

/-- R230: NOP does nothing. -/
def Obligations.NopDoesNothing : Prop :=
  ∀ s : State, s.Ready .nop → exec .nop s = .next s

/-- R231: ZEROIZE leaves every register but ERR and ERRCODE at its reset value, and changes nothing else. -/
def Obligations.ZeroizeClearsAllButTheErrorRecord : Prop :=
  ∀ s : State, s.Ready .zeroize →
    exec .zeroize s = .next { State.reset with
      err := s.err, errCode := s.errCode, host := s.host, resp := s.resp
      nextLatency := s.nextLatency, draws := s.draws }

/-- R20: the "written by" column, for commands: whatever a command does, errors included, it leaves every
register that the column does not list it for. R240, R244: ERR and ERRCODE change only where the command is not
acceptable, and then nothing else does. What `exec` answers for a term that no word decodes to, and for any term
while a command is in flight, is the model's choice (log entry 9); `host`, `resp`, `nextLatency` and `draws` are
the model's own fields (log entries 2 and 10). -/
def Obligations.CommandsWriteOnlyTheirListedRegisters : Prop :=
  ∀ (i : Instr) (s t : State), exec i s = .next t →
    (i ≠ .zeroize → t.key = s.key ∧ t.nonce = s.nonce ∧ t.din = s.din) ∧
    (i ∉ [.encrypt, .storeState, .zeroize] → (∀ inc, i ≠ .ctrKeystream inc) → (∀ len inc, i ≠ .ctrXor len inc) →
      t.dout = s.dout) ∧
    (i ∈ [.nop, .expandKey, .storeState] → t.state = s.state) ∧
    (i ∉ [.expandKey, .zeroize] → t.w = s.w ∧ t.schedValid = s.schedValid) ∧
    (i ≠ .zeroize → i ≠ .ctrKeystream true → (∀ len, i ≠ .ctrXor len true) → t.ctrIndex = s.ctrIndex) ∧
    (s.Ready i → t.err = s.err ∧ t.errCode = s.errCode) ∧
    (¬s.Ready i → t = { s with err := t.err, errCode := t.errCode }) ∧
    t.inflight = s.inflight ∧ t.host = s.host ∧ t.resp = s.resp ∧ t.nextLatency = s.nextLatency ∧
    t.draws = s.draws

/-- R28: W changes in a step only by a reset, or by EXPAND_KEY or ZEROIZE, in flight or presented in that
step. -/
def Obligations.OnlyExpandKeyZeroizeOrResetChangeTheSchedule : Prop :=
  ∀ s t : State, step s = .next t → t.w ≠ s.w →
    (∃ rest, s.host = .reset :: rest) ∨
    (∃ f, s.inflight = some f ∧ (f.cmd = .expandKey ∨ f.cmd = .zeroize)) ∨
    (s.inflight = none ∧ ∃ c rest, (decode c = .ok .expandKey ∨ decode c = .ok .zeroize) ∧
      (s.host = write32 0x000 c :: rest ∨ s.host = .busAccess (.write c) 32 Config.base :: rest))

/-- R29, R67, R275: a step that changes KEY leaves SCHED_VALID = 0, so no command runs under a schedule that no
longer matches KEY. -/
def Obligations.KeyChangeInvalidatesTheSchedule : Prop :=
  ∀ s t : State, step s = .next t → t.key ≠ s.key → t.schedValid = false

/-! ### Host sessions -/

/-- R22, R29, R273 steps 1 to 3: from any idle state and at every latency, the host's writes of KEY,
EXPAND_KEY with its poll, and the writes of NONCE and CTR_INDEX leave the schedule of the new key valid, the
new NONCE and CTR_INDEX, and every other register and the error record as they were. That the host is a list
of accesses is the model's choice (log entry 10), that a command completes rests on the spec's own assumption
(log entry 3), and `draws` and `nextLatency` are its own fields (log entry 2). -/
def Obligations.BeginSessionReadiesTheCore : Prop :=
  ∀ (s : State) (k : Key) (nonce : Block) (n : Word) (rest : List HostOp),
    s.inflight = none → s.host = Asm.beginSession k nonce n ++ rest →
    ∃ (m : Nat) (t : State), core.run m s = .next t ∧ t = { s with
      key := k, w := keyExpansion k, schedValid := true, nonce := nonce, ctrIndex := n
      host := rest, resp := .done, nextLatency := t.nextLatency, draws := t.draws }

/-- R204, R206, R273 step 4 with CTR_XOR: in a session, a chunk of 1 to 16 bytes written to DIN and
transformed leaves in DOUT the chunk XORed with the keystream block of CTR_INDEX, and CTR_INDEX one further
modulo 2^32; KEY, NONCE, the schedule and the error record are as they were. It holds at every latency. That
the host is a list of accesses is the model's choice (log entry 10), and that a command completes rests on the
spec's own assumption (log entry 3). -/
def Obligations.TransformChunkMasksTheChunk : Prop :=
  ∀ (s : State) (chunk : List Byte) (rest : List HostOp),
    s.inflight = none → s.schedValid = true → 1 ≤ chunk.length → chunk.length ≤ 16 →
    s.host = Asm.transformChunk chunk ++ rest →
    ∃ (m : Nat) (t : State), core.run m s = .next t ∧ t.inflight = none ∧ t.host = rest ∧
      t.key = s.key ∧ t.nonce = s.nonce ∧ t.w = s.w ∧ t.schedValid = true ∧ t.err = s.err ∧ t.errCode = s.errCode ∧
      t.ctrIndex = BitVec.ofNat 32 ((s.ctrIndex.toNat + 1) % 2 ^ 32) ∧
      t.state = cipher (counterBlock s.nonce s.ctrIndex) s.w ∧
      ∀ (j : Fin 16) (h : j.val < chunk.length),
        t.din[j] = chunk[j.val] ∧ t.dout[j] = chunk[j.val] ^^^ t.state[j]

/-- R170, R273 step 4 with ENCRYPT: in a session, a block written to DIN and encrypted leaves its cipher in
DOUT and STATE, and every other register and the error record as they were. It holds at every latency. That
the host is a list of accesses is the model's choice (log entry 10), and that a command completes rests on the
spec's own assumption (log entry 3). -/
def Obligations.EncryptBlockLeavesTheCipher : Prop :=
  ∀ (s : State) (data : Block) (rest : List HostOp),
    s.inflight = none → s.schedValid = true → s.host = Asm.encryptBlock data ++ rest →
    ∃ (m : Nat) (t : State), core.run m s = .next t ∧ t = { s with
      din := data, dout := cipher data s.w, state := cipher data s.w
      host := rest, resp := t.resp, nextLatency := t.nextLatency, draws := t.draws }

/-- R31, R273 step 5: the STATUS value that an idle core answers says that the session ran clean exactly when
ERR = 0, and the read changes nothing of the core. That the host is a list of accesses is the model's choice
(log entry 10). -/
def Obligations.SessionRanCleanExactlyWhenErrIsClear : Prop :=
  ∀ (s : State) (rest : List HostOp), s.inflight = none → s.host = Asm.checkSession ++ rest →
    ∃ v : Word, step s = .next { s with host := rest, resp := .data v } ∧ (Asm.ranClean v = true ↔ s.err = false)

/-- R273 step 6: the end of a session leaves every register but the error record at its reset value, at every
latency. That the host is a list of accesses is the model's choice (log entry 10), and that a command
completes rests on the spec's own assumption (log entry 3). -/
def Obligations.EndSessionClearsTheCore : Prop :=
  ∀ (s : State) (rest : List HostOp), s.inflight = none → s.host = Asm.endSession ++ rest →
    ∃ (m : Nat) (t : State), core.run m s = .next t ∧ t = { State.reset with
      err := s.err, errCode := s.errCode
      host := rest, resp := t.resp, nextLatency := t.nextLatency, draws := t.draws }
end

