-- ==== Sys2Proof/Tests/Slice0.lean ====
section
/-! SUPPORT. The model's own tests: words written out from the encoding strings of spec/30_encoding.md R86,
vectors of spec/95_test_vectors.md, and for each obligation with hypotheses a state that meets them. Every
expected value is the spec's. -/

namespace Sys2Proof.Tests

open Sys2Proof Sys2Proof.Machine

set_option maxRecDepth 20000

/-! ### Helpers -/

/-- A block from its byte string read as one number, first byte most significant (R11). -/
def blockOf (v : BitVec 128) : Block := Vector.ofFn fun i => v.extractLsb' (8 * (15 - i.val)) 8

/-- A schedule word from its byte string read as one number. -/
def wordOf (v : BitVec 32) : KWord := Vector.ofFn fun k => v.extractLsb' (8 * (3 - k.val)) 8

/-- The key 00 01 .. 1f (C1). -/
def v1Key : Key := Vector.ofFn fun i => BitVec.ofNat 8 i.val

/-- V4: the words of the schedule of the V1 key. -/
def v4Words : List (BitVec 32) :=
  [0x00010203, 0x04050607, 0x08090a0b, 0x0c0d0e0f, 0x10111213, 0x14151617] ++
  [0x18191a1b, 0x1c1d1e1f, 0xa573c29f, 0xa176c498, 0xa97fce93, 0xa572c09c] ++
  [0x1651a8cd, 0x0244beda, 0x1a5da4c1, 0x0640bade, 0xae87dff0, 0x0ff11b68] ++
  [0xa68ed5fb, 0x03fc1567, 0x6de1f148, 0x6fa54f92, 0x75f8eb53, 0x73b8518d] ++
  [0xc656827f, 0xc9a79917, 0x6f294cec, 0x6cd5598b, 0x3de23a75, 0x524775e7] ++
  [0x27bf9eb4, 0x5407cf39, 0x0bdc905f, 0xc27b0948, 0xad5245a4, 0xc1871c2f] ++
  [0x45f5a660, 0x17b2d387, 0x300d4d33, 0x640a820a, 0x7ccff71c, 0xbeb4fe54] ++
  [0x13e6bbf0, 0xd261a7df, 0xf01afafe, 0xe7a82979, 0xd7a5644a, 0xb3afe640] ++
  [0x2541fe71, 0x9bf50025, 0x8813bbd5, 0x5a721c0a, 0x4e5a6699, 0xa9f24fe0] ++
  [0x7e572baa, 0xcdf8cdea, 0x24fc79cc, 0xbf0979e9, 0x371ac23c, 0x6d68de36]

/-- V4 as a schedule. -/
def v4Schedule : Schedule := Vector.ofFn fun i => wordOf (v4Words.getD i.val 0)

/-- After EXPAND_KEY of the V1 key, with the V7 nonce and the V1 plaintext in DIN and in STATE; the next
command's latency is 0. -/
def demo : State :=
  { State.reset with
    key := v1Key, w := v4Schedule, schedValid := true
    nonce := blockOf 0xf0f1f2f3f4f5f6f7f8f9fafbfcfdfeff
    din := blockOf 0x00112233445566778899aabbccddeeff
    state := blockOf 0x00112233445566778899aabbccddeeff
    nextLatency := 0 }

/-- Reset, with the next command's latency `n`. -/
def fresh (n : Nat) : State := { State.reset with nextLatency := n }

/-- `s` with `i` in flight and `k` steps to count after the next. -/
def flying (s : State) (i : Instr) (k : Nat) : State :=
  { s with inflight := some { cmd := i, snap := s.live, stepsLeft := k } }

/-- The outcome is a next state that passes the check. -/
def passes (o : Outcome) (p : State → Bool) : Bool :=
  match o with
  | .next t => p t
  | .fault _ => false
  | .refused _ => false

/-! ### WellFormed refuses ill-formed terms (R82, R83) -/

theorem test_wf_refuses_rnd_15 : (Instr.addRoundKey 15).wf = false := by decide
theorem test_wf_refuses_len_0 : (Instr.ctrXor 0 false).wf = false := by decide
theorem test_wf_refuses_len_17 : (Instr.ctrXor 17 true).wf = false := by decide
theorem test_wf_accepts_edges :
    (Instr.addRoundKey 14).wf = true ∧ (Instr.ctrXor 1 true).wf = true ∧ (Instr.ctrXor 16 true).wf = true := by
  decide

/-! ### Decoding, words written out bit by bit from R86 -/

theorem test_decode_nop : decode 0b00000000000000000000000000000000 = .ok (.nop) := by rfl
theorem test_decode_expand_key : decode 0b00000000000000000000000000000001 = .ok (.expandKey) := by rfl
theorem test_decode_encrypt : decode 0b00000000000000000000000000000010 = .ok (.encrypt) := by rfl
theorem test_decode_ctr_keystream_inc : decode 0b00000001000000000000000000000011 = .ok (.ctrKeystream true) := by rfl
theorem test_decode_ctr_xor_len_16 : decode 0b00000000000100000000000000000100 = .ok (.ctrXor 16 false) := by rfl
theorem test_decode_ctr_xor_len_4_inc : decode 0b00000001000001000000000000000100 = .ok (.ctrXor 4 true) := by rfl
theorem test_decode_load_state : decode 0b00000000000000000000000000000101 = .ok (.loadState) := by rfl
theorem test_decode_store_state : decode 0b00000000000000000000000000000110 = .ok (.storeState) := by rfl
theorem test_decode_add_round_key_9 : decode 0b00000000000000000000100100000111 = .ok (.addRoundKey 9) := by rfl
theorem test_decode_sub_bytes : decode 0b00000000000000000000000000001000 = .ok (.subBytes) := by rfl
theorem test_decode_shift_rows : decode 0b00000000000000000000000000001001 = .ok (.shiftRows) := by rfl
theorem test_decode_mix_columns : decode 0b00000000000000000000000000001010 = .ok (.mixColumns) := by rfl
theorem test_decode_ctr_load_block : decode 0b00000000000000000000000000001011 = .ok (.ctrLoadBlock) := by rfl
theorem test_decode_zeroize : decode 0b00000000000000000000000000001100 = .ok (.zeroize) := by rfl

/-- R90: the worked words. -/
theorem test_encode_worked_words :
    encode (.addRoundKey 14) = 0x00000E07 ∧ encode (.ctrXor 16 true) = 0x01100004 ∧
    encode (.ctrXor 4 false) = 0x00040004 ∧ encode (.ctrKeystream true) = 0x01000003 := by decide

/-- V10: the rejected words, with the priority of R243. -/
theorem test_decode_rejects :
    decode 0x0000000D = .error .illegalOp ∧ decode 0x000000FF = .error .illegalOp ∧
    decode 0x80000001 = .error .reservedBits ∧ decode 0x01000002 = .error .reservedBits ∧
    decode 0x00100104 = .error .reservedBits ∧ decode 0x80000F07 = .error .reservedBits ∧
    decode 0x00000F07 = .error .badRound ∧ decode 0x00000004 = .error .badLen ∧
    decode 0x00110004 = .error .badLen := ⟨rfl, rfl, rfl, rfl, rfl, rfl, rfl, rfl, rfl⟩

theorem test_decodeTableWord : decodeTableWord 32 0x00000E07 = some (.addRoundKey 14) := by rfl

/-! ### The register map at its edges (R55) -/

theorem test_register_map_edges :
    regAt 0x000 = some .cmd ∧ regAt 0x00C = some .id ∧ regAt 0x010 = none ∧ regAt 0x01C = none ∧
    regAt 0x020 = some (.key 0) ∧ regAt 0x03C = some (.key 7) ∧ regAt 0x040 = some (.nonce 0) ∧
    regAt 0x05C = some (.din 3) ∧ regAt 0x060 = some (.dout 0) ∧ regAt 0x07C = some (.state 3) ∧
    regAt 0x080 = none ∧ regAt 0x0FC = none ∧ regAt 0x100 = some (.w 0) ∧ regAt 0x120 = some (.w 8) ∧
    regAt 0x1EC = some (.w 59) ∧ regAt 0x1F0 = none ∧ regAt 0x3FC = none := by decide

/-- R54: the example of the lane order. -/
theorem test_lane_order : keyLane v1Key 0 = 0x03020100 ∧ keyLane v1Key 7 = 0x1F1E1D1C := by decide

/-- P1: W8 and W59 as the host reads them. -/
theorem test_W_lanes : packWord v4Schedule[8] = 0x9FC273A5 ∧ packWord v4Schedule[59] = 0x36DE686D := by
  decide +kernel

/-! ### Pure functions (V3, V5) -/

theorem test_gf_products :
    xtime 0x57 = 0xae ∧ xtime 0xae = 0x47 ∧ xtime 0x80 = 0x1b ∧ mul3 0x80 = 0x9b ∧ mul3 0xff = 0x1a ∧
    gmul 0x57 0x83 = 0xc1 ∧ gmul 0x57 0x13 = 0xfe := by decide

theorem test_sbox_entries : sbox 0x53 = 0xed ∧ sbox 0x63 = 0xfb ∧ sbox 0xff = 0x16 := by decide

theorem test_rotWord_subWord :
    rotWord (wordOf 0x1c1d1e1f) = wordOf 0x1d1e1f1c ∧ subWord (wordOf 0x1c1d1e1f) = wordOf 0x9ca472c0 := by
  decide +kernel

/-- V4: all sixty words. -/
theorem test_keyExpansion_V4 : keyExpansion v1Key = v4Schedule := by decide +kernel

/-! ### Commands, one step each -/

theorem test_expandKey :
    passes (exec .expandKey { fresh 0 with key := v1Key }) (fun t =>
      t.w[59] == wordOf 0x6d68de36 && t.statusWord == 0x00000002) = true := by decide +kernel

/-- V1, P1. -/
theorem test_encrypt_V1 :
    passes (exec .encrypt demo) (fun t =>
      t.dout == blockOf 0x8ea2b7ca516745bfeafc49904b496089 && t.state == t.dout &&
      t.readReg (some (.dout 0)) == 0xCAB7A28E) = true := by decide +kernel

/-- P5: the keystream at 0xFFFFFFFF, and the wrap. -/
theorem test_ctrKeystream_wraps :
    passes (exec (.ctrKeystream true) { demo with ctrIndex := 0xFFFFFFFF }) (fun t =>
      t.dout == blockOf 0xd598c81c8956b140f7301714d83d7458 && t.ctrIndex == 0) = true := by decide +kernel

/-- V8, P3: the partial block. -/
theorem test_ctrXor_partial :
    passes (exec (.ctrXor 4 true)
        { demo with ctrIndex := 1, din := blockOf 0x10111213aabbccddeeff001122334455 }) (fun t =>
      t.dout == blockOf 0x2285655a000000000000000000000000 &&
      t.state == blockOf 0x32947749f33f062a3e863c059afa3e4c && t.ctrIndex == 2) = true := by decide +kernel

theorem test_loadState :
    passes (exec .loadState { fresh 0 with din := demo.din }) (fun t => t.state == demo.din) = true := by
  decide +kernel

/-- R172's example. -/
theorem test_storeState :
    passes (exec .storeState { fresh 0 with state := blockOf 0x4f63760643e0aa85efa7213201a4e705 }) (fun t =>
      t.readReg (some (.dout 0)) == 0x0676634F) = true := by decide +kernel

/-- V10 and V4: ADD_ROUND_KEY rnd=14 into a zero STATE gives K14. -/
theorem test_addRoundKey_14 :
    passes (exec (.addRoundKey 14) { demo with state := zeroBlock }) (fun t =>
      t.state == blockOf 0x24fc79ccbf0979e9371ac23c6d68de36) = true := by decide +kernel

/-- V1, round 0. -/
theorem test_addRoundKey_0 :
    passes (exec (.addRoundKey 0) demo) (fun t =>
      t.state == blockOf 0x00102030405060708090a0b0c0d0e0f0) = true := by decide +kernel

/-- V1, round 1. -/
theorem test_subBytes :
    passes (exec .subBytes { fresh 0 with state := blockOf 0x00102030405060708090a0b0c0d0e0f0 }) (fun t =>
      t.state == blockOf 0x63cab7040953d051cd60e0e7ba70e18c) = true := by decide +kernel

theorem test_shiftRows :
    passes (exec .shiftRows { fresh 0 with state := blockOf 0x63cab7040953d051cd60e0e7ba70e18c }) (fun t =>
      t.state == blockOf 0x6353e08c0960e104cd70b751bacad0e7) = true := by decide +kernel

theorem test_mixColumns :
    passes (exec .mixColumns { fresh 0 with state := blockOf 0x6353e08c0960e104cd70b751bacad0e7 }) (fun t =>
      t.state == blockOf 0x5f72641557f5bc92f7be3b291db9f91a) = true := by decide +kernel

/-- V7, P5. -/
theorem test_ctrLoadBlock :
    passes (exec .ctrLoadBlock { demo with ctrIndex := 0x01020304 }) (fun t =>
      t.state == blockOf 0xf1f3f1f7f4f5f6f7f8f9fafbfcfdfeff && t.ctrIndex == 0x01020304) = true := by
  decide +kernel

theorem test_zeroize :
    passes (exec .zeroize { demo with err := true, errCode := 5 }) (fun t =>
      t.key == zeroKey && t.w == zeroSchedule && t.statusWord == 0x00000054) = true := by decide +kernel

/-! ### Steps (V10) -/

theorem test_step_nop_after_reset :
    passes (step (State.reset.withFetchWord 32 0x00000000)) (fun t => t.statusWord == 0x00000000) = true := by
  decide +kernel

/-- V10: ENCRYPT after reset records NO_SCHEDULE. -/
theorem test_step_encrypt_after_reset :
    passes (step (State.reset.withFetchWord 32 0x00000002)) (fun t =>
      t.statusWord == 0x00000054 && t.dout == zeroBlock) = true := by decide +kernel

/-- V10: ADD_ROUND_KEY rnd=15 with a valid schedule. -/
theorem test_step_bad_round :
    passes (step (demo.withFetchWord 32 0x00000F07)) (fun t => t.statusWord == 0x00000036) = true := by
  decide +kernel

/-- V10: two errors, the first is kept. -/
theorem test_step_keeps_first_error :
    passes (step ({ State.reset with err := true, errCode := 5 }.withFetchWord 32 0x000000FF)) (fun t =>
      t.statusWord == 0x00000054) = true := by decide +kernel

/-- V10, latency 2: LOAD_STATE is accepted and STATUS reads 1. -/
theorem test_step_accepts :
    passes (step { fresh 2 with host := [Asm.cmd .loadState] }) (fun t => t.statusWord == 0x00000001) = true := by
  decide +kernel

/-- V10, latency 2: the write to DIN0 before completion is dropped, and STATUS reads 0x65. -/
theorem test_step_drops_write :
    passes (step { flying (fresh 0) .loadState 1 with host := [Asm.wr (.din 0) 0x12345678] }) (fun t =>
      t.statusWord == 0x00000065 && t.din == zeroBlock) = true := by decide +kernel

/-- V10, latency 2: after completion STATUS reads 0x64. -/
theorem test_step_completes :
    passes (step { flying { fresh 0 with err := true, errCode := 6 } .loadState 0 with host := [.poll] }) (fun t =>
      t.statusWord == 0x00000064 && t.resp == .data 0x00000065) = true := by decide +kernel

/-- P4: rewriting KEY7 with its own value clears SCHED_VALID. -/
theorem test_step_key_write :
    passes (step { demo with host := [Asm.wr (.key 7) 0x1F1E1D1C] }) (fun t =>
      t.statusWord == 0x00000000 && t.key == v1Key) = true := by decide +kernel

/-- P4: `clrerr`. -/
theorem test_step_clrerr :
    passes (step { fresh 0 with err := true, errCode := 5, host := [Asm.clrerr] }) (fun t =>
      t.statusWord == 0x00000000) = true := by decide +kernel

/-- P1: `rd ID`. -/
theorem test_step_read_id :
    passes (step { fresh 0 with host := [Asm.rd .id] }) (fun t => t.resp == .data 0x4B524131) = true := by
  decide +kernel

/-- R53: a halfword access is a bus error. -/
theorem test_step_bus_error :
    step { fresh 0 with host := [.access { kind := .read, bits := 16, off := 0x020 }] } = .fault .busError := by
  rfl

/-- R93, R94: the first and last access of `wrkey`. -/
theorem test_wrkey :
    (Asm.wrkey v1Key).head? = some (write32 0x020 0x03020100) ∧
    (Asm.wrkey v1Key).getLast? = some (write32 0x03C 0x1F1E1D1C) := by decide +kernel

/-! ### Witnesses: the hypotheses of the obligations are met -/

/-- `demo` is ready for every well-formed command. -/
theorem demo_ready (i : Instr) (h : i.wf = true) : demo.Ready i := ⟨rfl, h, fun _ => rfl⟩

/-- CompletionAppliesTheCommandsWrites, EveryStepKeepsTheInvariant: a state of a run that meets the invariant,
with a schedule-using command in its last step and in an earlier one. -/
theorem test_witness_invariant (k : Nat) : (flying demo .encrypt k).Inv where
  schedule := fun _ => test_keyExpansion_V4.symm
  snapshot := by intro f h; cases h; rfl
  command := by intro f h; cases h; rfl
  needs := by intro f h _; cases h; rfl
  noError := ⟨fun _ => rfl, fun _ => rfl⟩
  codes := (by decide : (0 : BitVec 4).toNat ≤ 6)

theorem test_witness_EveryStepKeepsTheInvariant :
    ∃ s t : State, s.Inv ∧ step s = .next t ∧ s.busy = true ∧ t.busy = false :=
  ⟨flying demo .encrypt 0, _, test_witness_invariant 0, rfl, rfl, rfl⟩

theorem test_witness_ResetAbandonsTheInFlightCommand :
    ∃ s : State, s.busy = true ∧ s.host = .reset :: [] :=
  ⟨{ flying demo .encrypt 3 with host := [.reset] }, rfl, rfl⟩

theorem test_witness_IdleCoreWaits : ∃ s : State, s.inflight = none ∧ s.host = [] := ⟨demo, rfl, rfl⟩

/-- Both clauses of StepRunsTheDecodedCommand: latency 0, a command that raises an error, latency 3. -/
theorem test_witness_StepRunsTheDecodedCommand :
    (∃ s : State, s.inflight = none ∧ s.host = write32 0x000 0x00000002 :: [] ∧ s.nextLatency = 0 ∧
      s.Ready .encrypt) ∧
    (∃ s : State, s.inflight = none ∧ s.host = write32 0x000 0x00000002 :: [] ∧ ¬s.Ready .encrypt) ∧
    (∃ s : State, s.inflight = none ∧ s.host = write32 0x000 0x00000002 :: [] ∧ s.nextLatency = 2 + 1 ∧
      s.Ready .encrypt) ∧
    decode 0x00000002 = .ok .encrypt :=
  ⟨⟨{ demo with host := [write32 0x000 0x00000002] }, rfl, rfl, rfl, rfl, rfl, fun _ => rfl⟩,
   ⟨{ fresh 0 with host := [write32 0x000 0x00000002] }, rfl, rfl, fun h => by cases h.schedule rfl⟩,
   ⟨{ demo with nextLatency := 3, host := [write32 0x000 0x00000002] }, rfl, rfl, rfl, rfl, rfl, fun _ => rfl⟩,
   rfl⟩

theorem test_witness_RejectedWordOnlyRecordsItsError :
    ∃ s : State, s.inflight = none ∧ s.host = write32 0x000 0x0000000D :: [] ∧
      decode 0x0000000D = .error .illegalOp :=
  ⟨{ demo with host := [write32 0x000 0x0000000D] }, rfl, rfl, rfl⟩

theorem test_witness_FirstErrorIsKept : (∃ s : State, s.err = true) ∧ ∃ s : State, s.err = false :=
  ⟨⟨{ demo with err := true, errCode := 5 }, rfl⟩, ⟨demo, rfl⟩⟩

/-- Every clause of PresentedWordRaisesTheFirstErrorThatApplies. -/
theorem test_witness_PresentedWord :
    (flying demo .nop 0).inflight ≠ none ∧ demo.inflight = none ∧ decode 0x80000F07 = .error .reservedBits ∧
    (decode 0x00000E07 = .ok (.addRoundKey 14) ∧ needsSchedule (.addRoundKey 14) = true ∧
      (fresh 0).schedValid = false ∧ demo.schedValid = true) ∧
    demo.nextLatency = 0 ∧ { demo with nextLatency := 5 }.nextLatency = 4 + 1 :=
  ⟨nofun, rfl, rfl, ⟨rfl, rfl, rfl, rfl⟩, rfl, rfl⟩

/-- ScheduleCommandsRaiseNoSchedule, at the edges of LEN and RND. -/
theorem test_witness_ScheduleCommandsRaiseNoSchedule :
    (fresh 0).inflight = none ∧ (fresh 0).schedValid = false ∧
    (1 ≤ (1 : BitVec 5).toNat ∧ (16 : BitVec 5).toNat ≤ 16) ∧ (14 : BitVec 4).toNat ≤ 14 :=
  ⟨rfl, rfl, by decide, by decide⟩

/-- IllegalOperandsAndBusyRaiseTheirErrors, at the edges of LEN. -/
theorem test_witness_IllegalOperandsAndBusy :
    demo.inflight = none ∧ (0 : BitVec 5).toNat = 0 ∧ 16 < (17 : BitVec 5).toNat ∧
    (flying demo .nop 0).inflight ≠ none := ⟨rfl, by decide, by decide, nofun⟩

/-- CompletionAppliesTheCommandsWrites, both clauses. -/
theorem test_witness_CompletionAppliesTheCommandsWrites :
    (∃ (s : State) (f : InFlight), s.inflight = some f ∧ s.Inv ∧ f.stepsLeft = 0) ∧
    ∃ (s : State) (f : InFlight), s.inflight = some f ∧ f.stepsLeft = 1 + 1 :=
  ⟨⟨flying demo .encrypt 0, _, rfl, test_witness_invariant 0, rfl⟩, ⟨flying demo .encrypt 2, _, rfl, rfl⟩⟩

theorem test_witness_PolledCommand :
    ∃ s : State, s.inflight = none ∧ s.host = write32 0x000 0x01100004 :: .poll :: [] ∧
      decode 0x01100004 = .ok (.ctrXor 16 true) ∧ s.Ready (.ctrXor 16 true) :=
  ⟨{ demo with nextLatency := 4, host := [write32 0x000 0x01100004, .poll] },
    rfl, rfl, rfl, rfl, rfl, fun _ => rfl⟩

theorem test_witness_PollLoopEnds :
    ∃ (s : State) (f : InFlight), s.inflight = some f ∧ s.host = .poll :: [] :=
  ⟨{ flying demo .mixColumns 2 with host := [.poll] }, _, rfl, rfl⟩

theorem test_witness_PollRepeatsWhileBusy :
    (∃ s : State, s.host = .poll :: [] ∧ s.inflight = none) ∧
    ∃ s : State, s.host = .poll :: [] ∧ s.inflight ≠ none :=
  ⟨⟨{ demo with host := [.poll] }, rfl, rfl⟩, ⟨{ flying demo .nop 1 with host := [.poll] }, rfl, nofun⟩⟩

/-- IdleReadAnswersTheRegister: an offset for each clause, at the edges of its range. -/
theorem test_witness_IdleRead (off : BitVec 10)
    (h : off ∈ ([0x000, 0x004, 0x008, 0x00C, 0x010, 0x01C, 0x020, 0x03C, 0x040, 0x04C, 0x050, 0x05C, 0x060,
      0x06C, 0x070, 0x07C, 0x080, 0x0FC, 0x100, 0x1EC, 0x1F0, 0x3FC] : List (BitVec 10))) :
    ∃ s : State, s.inflight = none ∧ s.host = read32 off :: [] ∧ off.toNat % 4 = 0 :=
  ⟨{ demo with host := [read32 off] }, rfl, rfl, by revert off; decide⟩

/-- IdleWriteStoresTheRegister: an offset for each clause, at the edges of its range. -/
theorem test_witness_IdleWrite (off : BitVec 10)
    (h : off ∈ ([0x008, 0x00C, 0x010, 0x020, 0x03C, 0x040, 0x04C, 0x050, 0x05C, 0x060, 0x07C, 0x100, 0x1EC,
      0x3FC] : List (BitVec 10))) :
    ∃ s : State, s.inflight = none ∧ s.host = write32 off 0x12345678 :: [] ∧ off.toNat % 4 = 0 ∧
      0x008 ≤ off.toNat :=
  ⟨{ demo with host := [write32 off 0x12345678] }, rfl, rfl, by revert off; decide, by revert off; decide⟩

/-- StatusRegisterReadsAndClears: a write while idle and one while BUSY. -/
theorem test_witness_StatusRegister :
    (∃ s : State, s.busy = false ∧ s.host = write32 0x004 0x00000004 :: []) ∧
    ∃ s : State, s.busy = true ∧ s.host = write32 0x004 0xFFFFFFFB :: [] :=
  ⟨⟨{ demo with host := [write32 0x004 0x00000004] }, rfl, rfl⟩,
   ⟨{ flying demo .nop 1 with host := [write32 0x004 0xFFFFFFFB] }, rfl, rfl⟩⟩

/-- AccessesWhileBusy: a read of a reserved offset and of a data register, a write to STATUS and to CMD. -/
theorem test_witness_AccessesWhileBusy :
    (∃ s : State, s.inflight ≠ none ∧ s.host = read32 0x3FC :: [] ∧
      regAt 0x3FC ∈ [none, some .cmd, some .status, some .id]) ∧
    (∃ s : State, s.inflight ≠ none ∧ s.host = read32 0x1EC :: [] ∧
      regAt 0x1EC ∉ [none, some .cmd, some .status, some .id]) ∧
    (∃ s : State, s.inflight ≠ none ∧ s.host = write32 0x004 4 :: []) ∧
    ∃ s : State, s.inflight ≠ none ∧ s.host = write32 0x000 0x0000000C :: [] :=
  ⟨⟨{ flying demo .nop 1 with host := [read32 0x3FC] }, nofun, rfl, by decide⟩,
   ⟨{ flying demo .nop 1 with host := [read32 0x1EC] }, nofun, rfl, by decide⟩,
   ⟨{ flying demo .nop 1 with host := [write32 0x004 4] }, nofun, rfl⟩,
   ⟨{ flying demo .nop 1 with host := [write32 0x000 0x0000000C] }, nofun, rfl⟩⟩

/-- WritesWhileBusyAreDropped, both clauses. -/
theorem test_witness_WritesWhileBusyAreDropped (k : Nat) :
    ∃ (s t : State) (f : InFlight), s.inflight = some f ∧ s.host = write32 0x020 1 :: [] ∧
      step s = .next t ∧ f.stepsLeft = k :=
  ⟨{ flying demo .subBytes k with host := [write32 0x020 1] },
   State.tick (State.cmdError { flying demo .subBytes k with host := [], resp := .done } .busy),
   { cmd := .subBytes, snap := demo.live, stepsLeft := k }, rfl, rfl, step_busy rfl rfl, rfl⟩

/-- OnlyBadAccessesGetABusError: every form of the host's operation. -/
theorem test_witness_OnlyBadAccesses :
    (∃ s : State, s.host = .access { kind := .read, bits := 8, off := 0 } :: []) ∧
    (∃ s : State, s.host = []) ∧ (∃ s : State, s.host = .poll :: []) ∧ ∃ s : State, s.host = .reset :: [] :=
  ⟨⟨{ demo with host := [.access { kind := .read, bits := 8, off := 0 }] }, rfl⟩, ⟨demo, rfl⟩,
   ⟨{ demo with host := [.poll] }, rfl⟩, ⟨{ demo with host := [.reset] }, rfl⟩⟩

/-- WindowDecodesBusAddresses: the first and the last offset of the window, and the first address after it.
(Whether an address lies before the window depends on the unknown `BASE`.) -/
theorem test_witness_WindowDecodesBusAddresses :
    (∃ s : State, s.host = .busAccess .read 32 (Config.base + (0x000 : BitVec 10).toNat) :: []) ∧
    (∃ s : State, s.host = .busAccess .read 32 (Config.base + (0x3FC : BitVec 10).toNat) :: []) ∧
    ∃ s : State, s.host = .busAccess .read 32 (Config.base + 0x400) :: [] ∧
      Config.base + 0x400 ≤ Config.base + 0x400 :=
  ⟨⟨{ demo with host := [.busAccess .read 32 (Config.base + (0x000 : BitVec 10).toNat)] }, rfl⟩,
   ⟨{ demo with host := [.busAccess .read 32 (Config.base + (0x3FC : BitVec 10).toNat)] }, rfl⟩,
   ⟨{ demo with host := [.busAccess .read 32 (Config.base + 0x400)] }, rfl, Nat.le_refl _⟩⟩

/-- KeyExpansionFollowsTheWordRule: a word index of each case, at the edges. -/
theorem test_witness_KeyExpansion :
    (8 % 8 = 0 ∧ 56 % 8 = 0 ∧ 12 % 8 = 4 ∧ 52 % 8 = 4 ∧ 59 % 8 ≠ 0 ∧ 59 % 8 ≠ 4) ∧ 8 ≤ 8 ∧ 59 < 60 := by
  decide

/-- The commands whose results are stated: `demo` is ready for each, with its operands at their edges. -/
theorem test_witness_Ready :
    demo.Ready .nop ∧ demo.Ready .expandKey ∧ demo.Ready .encrypt ∧ demo.Ready (.ctrKeystream true) ∧
    demo.Ready (.ctrXor 1 false) ∧ demo.Ready (.ctrXor 16 true) ∧ demo.Ready .loadState ∧
    demo.Ready .storeState ∧ demo.Ready (.addRoundKey 0) ∧ demo.Ready (.addRoundKey 14) ∧
    demo.Ready .subBytes ∧ demo.Ready .shiftRows ∧ demo.Ready .mixColumns ∧ demo.Ready .ctrLoadBlock ∧
    demo.Ready .zeroize :=
  ⟨demo_ready _ rfl, demo_ready _ rfl, demo_ready _ rfl, demo_ready _ rfl, demo_ready _ rfl, demo_ready _ rfl,
   demo_ready _ rfl, demo_ready _ rfl, demo_ready _ rfl, demo_ready _ rfl, demo_ready _ rfl, demo_ready _ rfl,
   demo_ready _ rfl, demo_ready _ rfl, demo_ready _ rfl⟩

/-- CtrXorTwiceRestoresTheData, CommandsWriteOnlyTheirListedRegisters: a command that answers a next state. -/
theorem test_witness_CtrXorTwice :
    ∃ s t : State, s.Ready (.ctrXor 4 true) ∧ exec (.ctrXor 4 true) s = .next t :=
  ⟨demo, _, demo_ready _ rfl, (exec_eq_perform _ _).trans (perform_of_ready (demo_ready _ rfl) _)⟩

/-- CommandsWriteOnlyTheirListedRegisters: a command for which the core is not ready. -/
theorem test_witness_not_Ready : ¬(fresh 0).Ready .encrypt := fun h => by cases h.schedule rfl

/-- OnlyExpandKeyZeroizeOrResetChangeTheSchedule, KeyChangeInvalidatesTheSchedule: a step that changes W and
KEY. -/
theorem test_witness_schedule_and_key_change :
    ∃ s t : State, step s = .next t ∧ t.w ≠ s.w ∧ t.key ≠ s.key :=
  ⟨{ demo with host := [.reset] }, _, rfl, by decide +kernel, by decide +kernel⟩

/-- DecoderChecksInTheOrderOfR89: words that meet each clause, at the edges of RND and LEN. -/
theorem test_witness_DecoderChecks :
    (opField 0x0000000D).toNat > 0x0C ∧ (0x80000001 : Word) &&& 0xFFFFFFFF ≠ 1 ∧
    ((0x00000F07 : Word) &&& 0xFFFFF0FF = 7 ∧ (rndField 0x00000F07).toNat > 14) ∧
    ((0x00000004 : Word) &&& 0xFEE0FFFF = 4 ∧ (lenField 0x00000004).toNat = 0) ∧
    ((0x00110004 : Word) &&& 0xFEE0FFFF = 4 ∧ (lenField 0x00110004).toNat > 16) ∧
    ((0x00000E07 : Word) &&& 0xFFFFF0FF = 7 ∧ ¬(rndField 0x00000E07).toNat > 14) ∧
    ((0x01100004 : Word) &&& 0xFEE0FFFF = 4 ∧ ¬(lenField 0x01100004).toNat > 16) := by decide

/-- R273: the accesses that begin and check a session: the first KEY word, EXPAND_KEY after the eighth, the poll,
and CTR_INDEX last; then the STATUS read, which says ERR. -/
theorem test_session_accesses :
    (Asm.beginSession v1Key zeroBlock 5)[0]? = some (write32 0x020 0x03020100) ∧
    (Asm.beginSession v1Key zeroBlock 5)[8]? = some (write32 0x000 0x00000001) ∧
    (Asm.beginSession v1Key zeroBlock 5)[9]? = some .poll ∧
    (Asm.beginSession v1Key zeroBlock 5)[14]? = some (write32 0x008 0x00000005) ∧
    Asm.checkSession = [read32 0x004] ∧ Asm.ranClean 0x00000002 = true ∧ Asm.ranClean 0x00000056 = false := by
  decide +kernel

/-- The statements about host sessions: a host that goes on with each part, and chunks of 1 and 16 bytes. -/
theorem test_witness_sessions :
    (∃ s : State, s.inflight = none ∧ s.host = Asm.beginSession v1Key zeroBlock 0 ++ []) ∧
    (∃ s : State, s.inflight = none ∧ s.schedValid = true ∧ s.host = Asm.transformChunk [0x10] ++ []) ∧
    (∃ s : State, s.inflight = none ∧ s.schedValid = true ∧
      s.host = Asm.transformChunk (List.replicate 16 0x10) ++ [] ∧ (List.replicate 16 (0x10 : Byte)).length = 16) ∧
    (∃ s : State, s.inflight = none ∧ s.schedValid = true ∧ s.host = Asm.encryptBlock zeroBlock ++ []) ∧
    (∃ s : State, s.inflight = none ∧ s.host = Asm.checkSession ++ []) ∧
    ∃ s : State, s.inflight = none ∧ s.host = Asm.endSession ++ [] :=
  ⟨⟨{ demo with host := _ }, rfl, rfl⟩, ⟨{ demo with host := _ }, rfl, rfl, rfl⟩,
   ⟨{ demo with host := _ }, rfl, rfl, rfl, rfl⟩, ⟨{ demo with host := _ }, rfl, rfl, rfl⟩,
   ⟨{ demo with host := _ }, rfl, rfl⟩, ⟨{ demo with host := _ }, rfl, rfl⟩⟩

/-- SboxIsAPermutationWithoutFixedPoints, CounterBlockIsOneToOneInTheIndex: equal inputs meet the premise. -/
theorem test_witness_one_to_one :
    sbox 0x53 = sbox 0x53 ∧ counterBlock zeroBlock 1 = counterBlock zeroBlock 1 := ⟨rfl, rfl⟩

end Sys2Proof.Tests
end

section
/-! SUPPORT. What a command, a host access, a step and a polled command can do to the registers of the core, and the
statements of spec/10_state.md settled from it. -/

namespace Sys2Proof.Machine

/-! ### What a command's writes leave (R20) -/
section
variable {i : Instr} (src : Snapshot) (s : State)

theorem applyWrites_inputs (h : i ≠ .zeroize) :
    (applyWrites i src s).key = s.key ∧ (applyWrites i src s).nonce = s.nonce ∧
      (applyWrites i src s).din = s.din := by
  cases i <;> simp [applyWrites] at h ⊢

theorem applyWrites_dout (h : i ∉ [.encrypt, .storeState, .zeroize]) (hk : ∀ inc, i ≠ .ctrKeystream inc)
    (hx : ∀ len inc, i ≠ .ctrXor len inc) : (applyWrites i src s).dout = s.dout := by
  cases i <;> simp [applyWrites] at h hk hx ⊢

theorem applyWrites_state (h : i ∈ [.nop, .expandKey, .storeState]) :
    (applyWrites i src s).state = s.state := by
  cases i <;> simp [applyWrites] at h ⊢

theorem applyWrites_schedule (h : i ∉ [.expandKey, .zeroize]) :
    (applyWrites i src s).w = s.w ∧ (applyWrites i src s).schedValid = s.schedValid := by
  cases i <;> simp [applyWrites] at h ⊢

theorem applyWrites_ctrIndex (hz : i ≠ .zeroize) (hk : i ≠ .ctrKeystream true)
    (hx : ∀ len, i ≠ .ctrXor len true) : (applyWrites i src s).ctrIndex = s.ctrIndex := by
  cases i <;> simp_all [applyWrites]

/-- The writes of a command do not read the fields beside the core's registers. -/
theorem applyWrites_withBus (i : Instr) (host : List HostOp) (resp : BusResp) (n d : Nat) :
    applyWrites i src { s with host := host, resp := resp, nextLatency := n, draws := d } =
      { applyWrites i src s with host := host, resp := resp, nextLatency := n, draws := d } := by
  cases i <;> simp [applyWrites]

theorem applyWrites_drawLatency (i : Instr) :
    applyWrites i src s.drawLatency = (applyWrites i src s).drawLatency :=
  (applyWrites_withBus src s i _ _ _ _).trans (by simp [State.drawLatency])

/-- A command that changes KEY leaves SCHED_VALID at 0: it is ZEROIZE. -/
theorem applyWrites_key_or_invalid (i : Instr) :
    (applyWrites i src s).key = s.key ∨ (applyWrites i src s).schedValid = false := by
  by_cases h : i = .zeroize
  · subst h; exact .inr rfl
  · exact .inl (applyWrites_inputs src s h).1

/-- A command's writes change W only where it is EXPAND_KEY or ZEROIZE. -/
theorem applyWrites_w {src} {s} (h : (applyWrites i src s).w ≠ s.w) :
    i = .expandKey ∨ i = .zeroize := by
  by_contra hn
  exact h (applyWrites_schedule src s (by simpa using hn)).1

end

/-- A command for which the core is ready applies its writes. -/
theorem exec_of_ready {s : State} {i : Instr} (h : s.Ready i) : exec i s = .next (applyWrites i s.live s) :=
  (exec_eq_perform i s).trans (perform_of_ready h _)

/-- Settles O48: an error records itself and nothing else, and a command's writes are its own. -/
theorem commandsWriteOnlyTheirListedRegisters : Obligations.CommandsWriteOnlyTheirListedRegisters := by
  intro i s t h
  rw [exec_eq_perform] at h
  obtain ⟨e, he, rfl⟩ | ⟨hr, rfl⟩ := perform_cases h
  · have hn : ¬s.Ready i := by rw [← presentError_eq_none_iff, he]; simp
    simp [hn, State.cmdError_eq]
  · exact ⟨applyWrites_inputs _ s, applyWrites_dout _ s, applyWrites_state _ s, applyWrites_schedule _ s,
      applyWrites_ctrIndex _ s, fun _ => ⟨applyWrites_err .., applyWrites_errCode ..⟩, fun hn => (hn hr).elim,
      applyWrites_inflight .., applyWrites_host .., applyWrites_resp .., applyWrites_nextLatency ..,
      applyWrites_draws ..⟩

/-! ### What a step can do: the host's turn, one access, one presented command word -/

/-- A presented command word records an error, or its command completes at once or goes in flight. -/
theorem present_cases {s t : State} {c : Word} (h : s.present c = .next t) :
    (∃ e, t = s.cmdError e ∨ t = s.drawLatency.cmdError e) ∨
    ∃ i, decode c = .ok i ∧ s.Ready i ∧
      (t = applyWrites i s.live s.drawLatency ∨ ∃ k, t = s.drawLatency.accept i k) := by
  unfold State.present at h
  split at h
  · cases h; exact .inl ⟨_, .inl rfl⟩
  · split at h
    next e _ => cases h; exact .inl ⟨e, .inl rfl⟩
    next i hd =>
      split at h
      next k hp _ =>
        cases h; exact .inr ⟨i, hd, (presentError_eq_none_iff s i).1 hp, .inr ⟨k, rfl⟩⟩
      next =>
        rw [exec_eq_perform] at h
        obtain ⟨e, -, rfl⟩ | ⟨hr, rfl⟩ := perform_cases h
        · exact .inl ⟨e, .inr rfl⟩
        · exact .inr ⟨i, hd, ⟨hr.idle, hr.legal, hr.schedule⟩, .inl rfl⟩

/-- A host write records an error, clears the error record, stores a register of an idle core, or presents a
command word. -/
theorem hostWrite_cases {s t : State} {r : Option Reg} {v : Word} (h : s.hostWrite r v = .next t) :
    (∃ e, t = s.cmdError e) ∨ t = s.writeStatus v ∨ (s.inflight = none ∧ t = s.writeReg r v) ∨
      (r = some .cmd ∧ s.present v = .next t) := by
  unfold State.hostWrite at h
  split at h
  next => exact .inr (.inr (.inr ⟨rfl, h⟩))
  next => cases h; exact .inr (.inl rfl)
  next =>
    split at h
    next => cases h; exact .inl ⟨_, rfl⟩
    next hb => cases h; exact .inr (.inr (.inl ⟨(State.busy_eq_false s).1 (by simpa using hb), rfl⟩))

/-- An access that is not a bus error is an aligned 32-bit read or write of the register at the offset. -/
theorem access_cases {s u : State} {a : Access} (h : s.access a = .next u) :
    a.bits = 32 ∧ a.off.toNat % 4 = 0 ∧
      ((a.kind = .read ∧ u = s.hostRead (regAt a.off)) ∨
        ∃ v, a.kind = .write v ∧ State.hostWrite { s with resp := .done } (regAt a.off) v = .next u) := by
  by_cases ha : a.bits = 32 ∧ a.off.toNat % 4 = 0
  · refine ⟨ha.1, ha.2, ?_⟩
    unfold State.access at h
    rw [if_pos ha] at h
    cases hk : a.kind with
    | read => rw [hk] at h; cases h; exact .inl ⟨rfl, rfl⟩
    | write v => rw [hk] at h; exact .inr ⟨v, rfl, h⟩
  · rw [access_bad s a ha] at h; cases h

/-- A bus address that reaches the core is `BASE` and the offset. -/
theorem eq_base_add_of_windowOffset {addr : Nat} {off : BitVec 10} (h : windowOffset addr = some off) :
    addr = Config.base + off.toNat := by
  unfold windowOffset at h
  split at h
  next hw =>
    have hs : Config.windowSize = 0x400 := rfl
    cases h
    rw [BitVec.toNat_ofNat]
    omega
  next => cases h

/-- A turn of the host that answers a next state leaves the core, or resets it, or is an aligned 32-bit write, by
offset or by bus address. -/
theorem hostTurn_cases {s u : State} (h : s.hostTurn = .next u) :
    (∃ host resp d, u = { s with host := host, resp := resp, draws := d }) ∨
    (∃ rest, s.host = .reset :: rest ∧ u = State.resetCore { s with host := rest }) ∨
    ∃ off v rest, off.toNat % 4 = 0 ∧
      (s.host = write32 off v :: rest ∨
        s.host = .busAccess (.write v) 32 (Config.base + off.toNat) :: rest) ∧
      State.hostWrite { s with host := rest, resp := .done } (regAt off) v = .next u := by
  cases hh : s.host with
  | nil => rw [hostTurn_nil hh] at h; cases h; exact .inl ⟨_, _, _, rfl⟩
  | cons op rest =>
    cases op with
    | access a =>
      rw [hostTurn_access hh] at h
      obtain ⟨kind, bits, off⟩ := a
      obtain ⟨rfl, ha, ⟨rfl, rfl⟩ | ⟨v, rfl, hw⟩⟩ := access_cases h
      · rw [State.hostRead_eq]; exact .inl ⟨_, _, _, rfl⟩
      · exact .inr (.inr ⟨off, v, rest, ha, .inl rfl, hw⟩)
    | busAccess kind bits addr =>
      cases ho : windowOffset addr with
      | none => rw [hostTurn_outside hh ho] at h; cases h; exact .inl ⟨_, _, _, rfl⟩
      | some off =>
        rw [hostTurn_busAccess hh ho] at h
        obtain ⟨rfl, ha, ⟨rfl, rfl⟩ | ⟨v, rfl, hw⟩⟩ := access_cases h
        · rw [State.hostRead_eq]; exact .inl ⟨_, _, _, rfl⟩
        · rw [eq_base_add_of_windowOffset ho]
          exact .inr (.inr ⟨off, v, rest, ha, .inr rfl, hw⟩)
    | poll => rw [hostTurn_poll hh] at h; cases h; exact .inl ⟨_, _, _, rfl⟩
    | reset =>
      rw [hostTurn_reset hh] at h; cases h
      exact .inr (.inl ⟨rest, rfl, rfl⟩)

/-- R33: the progress of an idle core is nothing; a command in flight applies its writes and ends, or counts. -/
theorem tick_cases (s : State) :
    s.tick = s ∨
    (∃ f, s.inflight = some f ∧ s.tick = applyWrites f.cmd f.snap { s with inflight := none }) ∨
    ∃ f k, s.inflight = some f ∧ s.tick = { s with inflight := some { f with stepsLeft := k } } := by
  cases hf : s.inflight with
  | none => exact .inl (tick_idle hf)
  | some f =>
    cases hk : f.stepsLeft with
    | zero => exact .inr (.inl ⟨f, rfl, tick_last hf hk⟩)
    | succ k => exact .inr (.inr ⟨f, k, rfl, tick_more hf hk⟩)

/-! ### What a register write leaves (R22, R29, R57) -/
section
variable (s : State) (r : Option Reg) (v : Word)

/-- The registers that a register write can change, and the only flag. -/
theorem State.writeReg_frame :
    s.writeReg r v = { s with
      ctrIndex := (s.writeReg r v).ctrIndex, key := (s.writeReg r v).key
      schedValid := (s.writeReg r v).schedValid, nonce := (s.writeReg r v).nonce
      din := (s.writeReg r v).din } := by
  unfold State.writeReg
  split <;> rfl

@[simp] theorem State.writeReg_w : (s.writeReg r v).w = s.w := by rw [State.writeReg_frame]
@[simp] theorem State.writeReg_err : (s.writeReg r v).err = s.err := by rw [State.writeReg_frame]
@[simp] theorem State.writeReg_errCode : (s.writeReg r v).errCode = s.errCode := by rw [State.writeReg_frame]

/-- R29: a KEY write clears SCHED_VALID, and any other register write leaves both. -/
theorem State.writeReg_key_or_invalid :
    ((s.writeReg r v).key = s.key ∧ (s.writeReg r v).schedValid = s.schedValid) ∨
      (s.writeReg r v).schedValid = false := by
  unfold State.writeReg
  split <;> simp

end

/-! ### The invariant (R29, R33, R240 to R244) -/

/-- R37: the invariant of the core after reset. -/
theorem reset_inv : State.reset.Inv where
  schedule h := by cases h
  snapshot _ h := by cases h
  command _ h := by cases h
  needs _ h := by cases h
  noError := by decide
  codes := by decide

/-- The invariant says nothing of the fields beside the core's. -/
theorem State.Inv.withBus {s : State} (h : s.Inv) (host : List HostOp) (resp : BusResp) (n d : Nat) :
    State.Inv { s with host := host, resp := resp, nextLatency := n, draws := d } :=
  ⟨h.schedule, h.snapshot, h.command, h.needs, h.noError, h.codes⟩

/-- A core without a command in flight meets the invariant whatever was in flight. -/
theorem State.Inv.abandon {s : State} (h : s.Inv) : State.Inv { s with inflight := none } where
  schedule := h.schedule
  snapshot _ hf := by cases hf
  command _ hf := by cases hf
  needs _ hf := by cases hf
  noError := h.noError
  codes := h.codes

theorem errorCode_produced (e : CmdError) : errorCode e ≠ 0 ∧ (errorCode e).toNat ≤ 6 := by
  cases e <;> decide

theorem State.Inv.cmdError {s : State} (h : s.Inv) (e : CmdError) : (s.cmdError e).Inv where
  schedule := by simpa using h.schedule
  snapshot := by simpa using h.snapshot
  command := by simpa using h.command
  needs := by simpa using h.needs
  noError := by
    have hn := h.noError
    cases he : s.err <;> simp [he] at hn ⊢
    · exact (errorCode_produced e).1
    · exact hn
  codes := by
    cases he : s.err <;> simp [he]
    · exact (errorCode_produced e).2
    · exact h.codes

theorem State.Inv.writeStatus {s : State} (h : s.Inv) (v : Word) : (s.writeStatus v).Inv := by
  unfold State.writeStatus
  split
  · exact ⟨h.schedule, h.snapshot, h.command, h.needs, by simp, by simp⟩
  · exact h

theorem State.Inv.writeReg {s : State} (h : s.Inv) (hi : s.inflight = none) (r : Option Reg) (v : Word) :
    (s.writeReg r v).Inv where
  schedule := by
    obtain ⟨hk, hv⟩ | hv := State.writeReg_key_or_invalid s r v
    · rw [hk, hv, State.writeReg_w]; exact h.schedule
    · simp [hv]
  snapshot := by simp [hi]
  command := by simp [hi]
  needs := by simp [hi]
  noError := by simpa using h.noError
  codes := by simpa using h.codes

/-- A command's writes to an idle core: EXPAND_KEY makes the schedule that of KEY, ZEROIZE clears SCHED_VALID,
and no other command changes KEY, W or SCHED_VALID. -/
theorem State.Inv.applyWrites {s : State} (h : s.Inv) (hi : s.inflight = none) (i : Instr) :
    (Machine.applyWrites i s.live s).Inv where
  schedule := by
    by_cases hx : i = .expandKey
    · subst hx; exact fun _ => rfl
    by_cases hz : i = .zeroize
    · subst hz; simp [Machine.applyWrites]
    obtain ⟨hw, hv⟩ := applyWrites_schedule s.live s (i := i) (by simp [hx, hz])
    rw [hw, hv, (applyWrites_inputs s.live s hz).1]
    exact h.schedule
  snapshot := by simp [hi]
  command := by simp [hi]
  needs := by simp [hi]
  noError := by simpa using h.noError
  codes := by simpa using h.codes

/-- R33: acceptance takes the snapshot from the live registers. -/
theorem State.Inv.accept {s : State} {i : Instr} (h : s.Inv) (hr : s.Ready i) (k : Nat) : (s.accept i k).Inv where
  schedule := h.schedule
  snapshot := by simp
  command := by simpa using hr.legal
  needs := by simpa using hr.schedule
  noError := h.noError
  codes := h.codes

theorem State.Inv.drawLatency {s : State} (h : s.Inv) : s.drawLatency.Inv := h.withBus _ _ _ _

theorem State.Ready.drawLatency {s : State} {i : Instr} (h : s.Ready i) : s.drawLatency.Ready i :=
  ⟨h.idle, h.legal, h.schedule⟩

/-- R277: a command in flight under the invariant advances as if it were run at once on the live registers. -/
theorem State.Inv.tick {s : State} (h : s.Inv) : s.tick.Inv := by
  obtain ht | ⟨f, hf, ht⟩ | ⟨f, k, hf, ht⟩ := tick_cases s <;> rw [ht]
  · exact h
  · rw [h.snapshot f hf]
    exact h.abandon.applyWrites rfl f.cmd
  · exact ⟨h.schedule, fun _ hg => by cases hg; exact h.snapshot f hf, fun _ hg => by cases hg; exact h.command f hf,
      fun _ hg => by cases hg; exact h.needs f hf, h.noError, h.codes⟩

theorem present_inv {s t : State} {c : Word} (hs : s.Inv) (h : s.present c = .next t) : t.Inv := by
  obtain ⟨e, rfl | rfl⟩ | ⟨i, -, hr, rfl | ⟨k, rfl⟩⟩ := present_cases h
  · exact hs.cmdError e
  · exact hs.drawLatency.cmdError e
  · exact hs.drawLatency.applyWrites hr.idle i
  · exact hs.drawLatency.accept hr.drawLatency k

theorem hostWrite_inv {s t : State} {r : Option Reg} {v : Word} (hs : s.Inv) (h : s.hostWrite r v = .next t) :
    t.Inv := by
  obtain ⟨e, rfl⟩ | rfl | ⟨hi, rfl⟩ | ⟨-, h⟩ := hostWrite_cases h
  · exact hs.cmdError e
  · exact hs.writeStatus v
  · exact hs.writeReg hi r v
  · exact present_inv hs h

theorem hostTurn_inv {s u : State} (hs : s.Inv) (h : s.hostTurn = .next u) : u.Inv := by
  obtain ⟨host, resp, d, rfl⟩ | ⟨rest, -, rfl⟩ | ⟨off, v, rest, -, -, h⟩ := hostTurn_cases h
  · exact hs.withBus host resp _ d
  · exact reset_inv.withBus _ _ _ _
  · exact hostWrite_inv (hs.withBus rest .done _ _) h

/-- Settles O3: the host's turn keeps the invariant, and so does the progress of the command in flight. -/
theorem everyStepKeepsTheInvariant : Obligations.EveryStepKeepsTheInvariant := by
  intro s t hs h
  obtain ⟨u, hu, rfl⟩ := step_cases h
  have hi := hostTurn_inv hs hu
  split
  · exact hi.tick
  · exact hi

/-- Settles O1. -/
theorem resetHoldsTheResetValues : Obligations.ResetHoldsTheResetValues := by
  refine ⟨?_, ?_, ?_, rfl, rfl, rfl, rfl, rfl, rfl, rfl⟩
  · simp [State.reset, zeroKey]
  · simp [State.reset, zeroBlock]
  · simp [State.reset, zeroSchedule]

/-- Settles O2. -/
theorem resetMeetsTheInvariant : Obligations.ResetMeetsTheInvariant := reset_inv

/-! ### Commands in flight, and polled for (R33, R63, R277, R280) -/

/-- A command in flight under the invariant is one that the core, were it idle, would accept. -/
theorem State.Inv.ready {s : State} {f : InFlight} (h : s.Inv) (hf : s.inflight = some f) :
    State.Ready { s with inflight := none } f.cmd :=
  ⟨rfl, h.command f hf, h.needs f hf⟩

/-- Settles O15: under the invariant the snapshot is the live registers, and the command is ready to run. -/
theorem completionAppliesTheCommandsWrites : Obligations.CompletionAppliesTheCommandsWrites := by
  intro s f hf
  refine ⟨fun hs h0 => ?_, fun k hk => tick_more hf hk⟩
  rw [exec_of_ready (hs.ready hf), tick_last hf h0, hs.snapshot f hf]
  rfl

/-- R240: a decodable word presented to an idle core at latency 0, or that raises an error, runs to its end. -/
theorem present_exec {s : State} {c : Word} {i : Instr} (hi : s.inflight = none) (hd : decode c = .ok i)
    (h : s.nextLatency = 0 ∨ ¬s.Ready i) : s.present c = exec i s.drawLatency := by
  simp only [State.present, State.busy_of_idle hi, hd, Bool.false_eq_true, if_false]
  split
  next k hp hk =>
    rw [presentError_eq_none_iff] at hp
    rcases h with h | h
    · omega
    · exact absurd hp h
  next => rfl

/-- R33: a word that an idle core accepts at latency `k + 1` goes in flight. -/
theorem present_accept {s : State} {c : Word} {i : Instr} {k : Nat} (hd : decode c = .ok i)
    (hk : s.nextLatency = k + 1) (hr : s.Ready i) : s.present c = .next (s.drawLatency.accept i k) := by
  simp only [State.present, State.busy_of_idle hr.idle, hd, (presentError_eq_none_iff s i).2 hr, hk,
    Bool.false_eq_true, if_false]

/-- The write of a command word to CMD of an idle core whose latency is 0, or which does not accept it. -/
theorem step_cmd_exec {s : State} {c : Word} {i : Instr} {rest : List HostOp} (hi : s.inflight = none)
    (hh : s.host = write32 0x000 c :: rest) (hd : decode c = .ok i) (h : s.nextLatency = 0 ∨ ¬s.Ready i) :
    step s = exec i (s.atCommand rest) := by
  rw [step_idle hi, hostTurn_cmd hh]
  exact present_exec hi hd (h.imp_right fun hn hr => hn ⟨hr.idle, hr.legal, hr.schedule⟩)

/-- The write of a command word to CMD of an idle core that accepts it with latency `k + 1`. -/
theorem step_cmd_accept {s : State} {c : Word} {i : Instr} {rest : List HostOp} {k : Nat}
    (hh : s.host = write32 0x000 c :: rest) (hd : decode c = .ok i) (hk : s.nextLatency = k + 1)
    (hr : s.Ready i) : step s = .next ((s.atCommand rest).accept i k) := by
  rw [step_idle hr.idle, hostTurn_cmd hh]
  exact present_accept hd hk ⟨hr.idle, hr.legal, hr.schedule⟩

/-- Settles O9. -/
theorem stepRunsTheDecodedCommand : Obligations.StepRunsTheDecodedCommand :=
  fun _ _ _ _ hi hh hd => ⟨step_cmd_exec hi hh hd, fun _ hk hr => step_cmd_accept hh hd hk hr⟩

/-- R93: what the last STATUS read of a poll leaves. -/
def State.afterPoll (s : State) (rest : List HostOp) : State :=
  { s with host := rest, resp := .data s.statusWord }

/-- R93: the poll of an idle core ends in one step. -/
theorem step_poll_idle {s : State} {rest : List HostOp} (hi : s.inflight = none) (hh : s.host = .poll :: rest) :
    step s = .next (s.afterPoll rest) := by
  rw [step_idle hi, hostTurn_poll hh, State.busy_of_idle hi]
  rfl

/-- R93: the poll of a busy core goes on, and the command in flight advances. -/
theorem step_poll_busy {s : State} {f : InFlight} {rest : List HostOp} (hf : s.inflight = some f)
    (hh : s.host = .poll :: rest) : step s = .next (State.tick { s with resp := .data s.statusWord }) := by
  have hb := State.busy_of_inflight hf
  rw [step_busy hb (hostTurn_poll hh), hb]
  rfl

/-- What a poll leaves of a command's writes does not depend on the host's side before it. -/
theorem applyWrites_afterPoll (i : Instr) (src : Snapshot) (s : State) (host : List HostOp) (resp : BusResp)
    (rest : List HostOp) :
    (applyWrites i src { s with host := host, resp := resp }).afterPoll rest =
      (applyWrites i src s).afterPoll rest := by
  rw [applyWrites_withBus src s i host resp s.nextLatency s.draws]
  simp [State.afterPoll, State.statusWord, State.busy]

/-- R63, R93: a poll ends two steps after the last count of the command in flight, with its writes applied. -/
theorem run_poll {s : State} {f : InFlight} {rest : List HostOp} (hf : s.inflight = some f)
    (hh : s.host = .poll :: rest) :
    core.run (f.stepsLeft + 2) s =
      .next ((applyWrites f.cmd f.snap { s with inflight := none }).afterPoll rest) := by
  induction hk : f.stepsLeft generalizing s f with
  | zero =>
    rw [run_succ ((step_poll_busy hf hh).trans (congrArg _ (tick_last hf hk))),
      run_succ (step_poll_idle (rest := rest) (by simp) (by simpa using hh))]
    exact congrArg _ (applyWrites_afterPoll _ _ { s with inflight := none } s.host _ rest)
  | succ k ih =>
    rw [Nat.add_right_comm, run_succ ((step_poll_busy hf hh).trans (congrArg _ (tick_more hf hk)))]
    exact (ih (s := { s with inflight := some { f with stepsLeft := k }, resp := _ }) rfl hh rfl).trans
      (congrArg _ (applyWrites_afterPoll _ _ { s with inflight := none } s.host _ rest))

/-- An idle core that accepts a command and abandons it is as it was. -/
theorem accept_abandon {s : State} (hi : s.inflight = none) (i : Instr) (k : Nat) :
    { s.accept i k with inflight := none } = s := by
  rw [← hi]; rfl

/-- R33, R63, R280: an accepted command word and its poll, at every latency: the command's writes are applied. -/
theorem run_cmd_poll {s : State} {c : Word} {i : Instr} {rest : List HostOp}
    (hh : s.host = write32 0x000 c :: .poll :: rest) (hd : decode c = .ok i) (hr : s.Ready i) :
    core.run (s.nextLatency + 2) s = .next ((applyWrites i s.live s).drawLatency.afterPoll rest) := by
  have hbus : (applyWrites i s.live (s.atCommand (.poll :: rest))).afterPoll rest =
      (applyWrites i s.live s).drawLatency.afterPoll rest := by
    rw [← applyWrites_drawLatency]
    exact applyWrites_afterPoll i s.live s.drawLatency (.poll :: rest) .done rest
  rw [← hbus]
  have hr' : (s.atCommand (.poll :: rest)).Ready i := ⟨hr.idle, hr.legal, hr.schedule⟩
  cases hk : s.nextLatency with
  | zero =>
    have hstep := (step_cmd_exec hr.idle hh hd (.inl hk)).trans (exec_of_ready hr')
    rw [run_succ hstep, run_succ (step_poll_idle (by simpa using hr'.idle) (applyWrites_host ..))]
    rfl
  | succ k =>
    rw [Nat.add_right_comm, run_succ (step_cmd_accept hh hd hk hr), run_poll (f := ⟨i, s.live, k⟩) rfl rfl,
      accept_abandon hr'.idle]

/-- Settles O16. -/
theorem polledCommandHasItsEffectAtEveryLatency : Obligations.PolledCommandHasItsEffectAtEveryLatency := by
  intro s c i rest hi hh hd hr
  refine ⟨_, _, run_cmd_poll hh hd hr, exec_of_ready hr, ?_⟩
  exact ⟨rfl, rfl, rfl, rfl, rfl, rfl, rfl, rfl, rfl, rfl, (applyWrites_inflight i s.live s).trans hi, rfl, rfl⟩

/-! ### STATUS (R31) -/

theorem statusWord_fields (s : State) :
    s.statusWord.getLsbD 0 = s.inflight.isSome ∧ s.statusWord.getLsbD 1 = s.schedValid ∧
      s.statusWord.getLsbD 2 = s.err ∧ s.statusWord.getLsbD 3 = false ∧
      s.statusWord.extractLsb' 4 4 = s.errCode ∧ ∀ i, 8 ≤ i → s.statusWord.getLsbD i = false := by
  refine ⟨by simp [State.statusWord, State.busy], by simp [State.statusWord], by simp [State.statusWord],
    by simp [State.statusWord], ?_, fun i hi => ?_⟩
  · ext i hi
    interval_cases i <;> simp [State.statusWord]
  · have he : s.errCode.getLsbD (i - 4) = false := BitVec.getLsbD_of_ge _ _ (by omega)
    simp [State.statusWord, he]
    omega

/-- The progress of a command in flight keeps the error record. -/
theorem tick_errorRecord (s : State) : s.tick.err = s.err ∧ s.tick.errCode = s.errCode := by
  obtain ht | ⟨f, -, ht⟩ | ⟨f, k, -, ht⟩ := tick_cases s <;> rw [ht]
  · exact ⟨rfl, rfl⟩
  · exact ⟨applyWrites_err .., applyWrites_errCode ..⟩
  · exact ⟨rfl, rfl⟩

/-- A step is the host's turn and then the progress of a command in flight, unless the turn put one there. -/
theorem step_tick {s u : State} (h : s.hostTurn = .next u) (hi : s.inflight = none → u.inflight = none) :
    step s = .next u.tick := by
  cases hf : s.inflight with
  | none => rw [step_idle hf, h, tick_idle (hi hf)]
  | some f => exact step_busy (State.busy_of_inflight hf) h

/-- Settles O21. -/
theorem statusRegisterReadsAndClears : Obligations.StatusRegisterReadsAndClears := by
  refine ⟨statusWord_fields, fun s v rest hh => ?_, tick_errorRecord⟩
  have ht : s.hostTurn = .next (State.writeStatus { s with host := rest, resp := .done } v) := by
    rw [hostTurn_write hh (by decide), show regAt 0x004 = some .status by decide]
    rfl
  rw [State.writeStatus_eq] at ht
  exact step_tick ht id

/-- Settles O54. -/
theorem sessionRanCleanExactlyWhenErrIsClear : Obligations.SessionRanCleanExactlyWhenErrIsClear :=
  fun s _ hi hh => ⟨s.statusWord, step_rd (r := .status) hi hh, by simp⟩

/-! ### Register writes of an idle core (R22, R54 to R58) -/

/-- R55: an aligned offset reaches the register whose offset it is. -/
theorem regAt_eq_some_iff_toNat {off : BitVec 10} (ha : off.toNat % 4 = 0) (r : Reg) :
    regAt off = some r ↔ off.toNat = r.offset.toNat := by
  refine ⟨fun h => ?_, fun h => BitVec.eq_of_toNat_eq h ▸ regAt_offset r⟩
  unfold regAt at h
  simp only at h
  split_ifs at h
  · have hq : off.toNat / 4 = 0 ∨ off.toNat / 4 = 1 ∨ off.toNat / 4 = 2 ∨ off.toNat / 4 = 3 := by omega
    rcases hq with hq | hq | hq | hq
    all_goals rw [hq] at h; cases h; simp [Reg.offset]; omega
  all_goals cases h; simp [Reg.offset]; omega

@[simp] theorem key_offset_toNat (j : Fin 8) : (Reg.key j).offset.toNat = 0x020 + 4 * j.val := by
  simp [Reg.offset]; omega
@[simp] theorem nonce_offset_toNat (j : Fin 4) : (Reg.nonce j).offset.toNat = 0x040 + 4 * j.val := by
  simp [Reg.offset]; omega
@[simp] theorem din_offset_toNat (j : Fin 4) : (Reg.din j).offset.toNat = 0x050 + 4 * j.val := by
  simp [Reg.offset]; omega

/-- R51, R55: the offsets of the KEY words. -/
theorem exists_regAt_eq_key_iff {off : BitVec 10} (ha : off.toNat % 4 = 0) :
    (∃ j, regAt off = some (.key j)) ↔ 0x020 ≤ off.toNat ∧ off.toNat < 0x040 := by
  simp only [regAt_eq_some_iff_toNat ha, key_offset_toNat]
  refine ⟨fun ⟨j, hj⟩ => by omega, fun h => ⟨⟨(off.toNat - 0x020) / 4, by omega⟩, ?_⟩⟩
  show off.toNat = 0x020 + 4 * ((off.toNat - 0x020) / 4)
  omega

/-- R54: writing register word `j'` of KEY stores its four byte lanes and leaves the other words. -/
theorem setKeyLane_getElem_lane (k : Key) (j' j : Fin 8) (v : Word) (b : Fin 4) :
    (setKeyLane k j' v)[4 * j.val + b.val] = if j' = j then lane v b.val else k[4 * j.val + b.val] := by
  have hd : (4 * j.val + b.val) / 4 = j.val := by omega
  have hm : (4 * j.val + b.val) % 4 = b.val := by omega
  rw [setKeyLane_getElem, hd, hm]
  simp only [Fin.ext_iff, eq_comm]

/-- R54: the same of a 16-byte register. -/
theorem setBlockLane_getElem_lane (a : Block) (j' j : Fin 4) (v : Word) (b : Fin 4) :
    (setBlockLane a j' v)[4 * j.val + b.val] = if j' = j then lane v b.val else a[4 * j.val + b.val] := by
  have hd : (4 * j.val + b.val) / 4 = j.val := by omega
  have hm : (4 * j.val + b.val) % 4 = b.val := by omega
  rw [setBlockLane_getElem, hd, hm]
  simp only [Fin.ext_iff, eq_comm]

section
variable (s : State) (r : Option Reg) (v : Word)

theorem State.writeReg_ctrIndex :
    (s.writeReg r v).ctrIndex = if r = some .ctrIndex then v else s.ctrIndex := by
  unfold State.writeReg
  split <;> simp_all

/-- R22, R29: a KEY write clears SCHED_VALID. -/
theorem State.writeReg_schedValid :
    (s.writeReg r v).schedValid = if ∃ j, r = some (.key j) then false else s.schedValid := by
  unfold State.writeReg
  split <;> simp_all

theorem State.writeReg_key (j : Fin 8) (b : Fin 4) :
    (s.writeReg r v).key[4 * j.val + b.val] =
      if r = some (.key j) then lane v b.val else s.key[4 * j.val + b.val] := by
  unfold State.writeReg
  split <;> simp [setKeyLane_getElem_lane]

theorem State.writeReg_nonce (j b : Fin 4) :
    (s.writeReg r v).nonce[4 * j.val + b.val] =
      if r = some (.nonce j) then lane v b.val else s.nonce[4 * j.val + b.val] := by
  unfold State.writeReg
  split <;> simp [setBlockLane_getElem_lane]

theorem State.writeReg_din (j b : Fin 4) :
    (s.writeReg r v).din[4 * j.val + b.val] =
      if r = some (.din j) then lane v b.val else s.din[4 * j.val + b.val] := by
  unfold State.writeReg
  split <;> simp [setBlockLane_getElem_lane]

end

/-- A write to an idle core, other than to CMD and STATUS, stores a register. -/
theorem hostWrite_idle {s : State} {r : Option Reg} {v : Word} (hi : s.inflight = none) (hc : r ≠ some .cmd)
    (hs : r ≠ some .status) : s.hostWrite r v = .next (s.writeReg r v) := by
  unfold State.hostWrite
  split
  next => exact (hc rfl).elim
  next => exact (hs rfl).elim
  next => rw [State.busy_of_idle hi]; rfl

/-- Settles O20. -/
theorem idleWriteStoresTheRegister : Obligations.IdleWriteStoresTheRegister := by
  intro s off v rest hi hh ha h8
  have hne (r : Reg) (hr : r.offset.toNat < 0x008) : regAt off ≠ some r := fun h => by
    rw [regAt_eq_some_iff_toNat ha] at h
    omega
  refine ⟨_, ?_, State.writeReg_frame { s with host := rest, resp := .done } (regAt off) v, ?_, ?_, ?_, ?_⟩
  · rw [step_idle hi, hostTurn_write hh ha]
    exact hostWrite_idle hi (hne .cmd (by decide)) (hne .status (by decide))
  · simp only [State.writeReg_ctrIndex, regAt_eq_some_iff_toNat ha]
    rfl
  · simp only [State.writeReg_schedValid, exists_regAt_eq_key_iff ha]
  · intro j b
    simp only [State.writeReg_key, regAt_eq_some_iff_toNat ha, key_offset_toNat, lane]
  · intro j b
    simp only [State.writeReg_nonce, State.writeReg_din, regAt_eq_some_iff_toNat ha, nonce_offset_toNat,
      din_offset_toNat, lane, and_self]

/-! ### W and KEY across a step (R28, R29, R67, R275) -/

/-- The host's turn while a command is in flight: a reset abandons the command, and nothing else changes it, the
registers it reads, or SCHED_VALID. -/
theorem hostTurn_busy {s u : State} (hb : s.inflight ≠ none) (h : s.hostTurn = .next u) :
    (∃ rest, s.host = .reset :: rest) ∨
      (u.live = s.live ∧ u.schedValid = s.schedValid ∧ u.inflight = s.inflight) := by
  obtain ⟨host, resp, d, rfl⟩ | ⟨rest, hr, rfl⟩ | ⟨off, v, rest, -, -, hw⟩ := hostTurn_cases h
  · exact .inr ⟨rfl, rfl, rfl⟩
  · exact .inl ⟨rest, hr⟩
  · obtain ⟨e, rfl⟩ | rfl | ⟨hi, -⟩ | ⟨-, hp⟩ := hostWrite_cases hw
    · exact .inr ⟨State.cmdError_live .., State.cmdError_schedValid .., State.cmdError_inflight ..⟩
    · exact .inr ⟨State.writeStatus_live .., State.writeStatus_schedValid .., State.writeStatus_inflight ..⟩
    · exact absurd hi hb
    · obtain ⟨e, rfl | rfl⟩ | ⟨i, -, hr, -⟩ := present_cases hp
      · exact .inr ⟨State.cmdError_live .., State.cmdError_schedValid .., State.cmdError_inflight ..⟩
      · exact .inr ⟨State.cmdError_live .., State.cmdError_schedValid .., State.cmdError_inflight ..⟩
      · exact absurd hr.idle hb

/-- The progress of a command in flight changes W only where it is EXPAND_KEY or ZEROIZE. -/
theorem tick_w {s : State} (h : s.tick.w ≠ s.w) :
    ∃ f, s.inflight = some f ∧ (f.cmd = .expandKey ∨ f.cmd = .zeroize) := by
  obtain ht | ⟨f, hf, ht⟩ | ⟨f, k, -, ht⟩ := tick_cases s <;> rw [ht] at h
  · exact absurd rfl h
  · exact ⟨f, hf, applyWrites_w h⟩
  · exact absurd rfl h

/-- The progress of a command in flight that changes KEY leaves SCHED_VALID at 0. -/
theorem tick_key (s : State) : s.tick.key = s.key ∨ s.tick.schedValid = false := by
  obtain ht | ⟨f, -, ht⟩ | ⟨f, k, -, ht⟩ := tick_cases s <;> rw [ht]
  · exact .inl rfl
  · exact applyWrites_key_or_invalid f.snap { s with inflight := none } f.cmd
  · exact .inl rfl

/-- R28: a host write changes W only where it presents EXPAND_KEY or ZEROIZE to an idle core. -/
theorem hostWrite_w {s t : State} {r : Option Reg} {v : Word} (h : s.hostWrite r v = .next t)
    (hw : t.w ≠ s.w) :
    s.inflight = none ∧ r = some .cmd ∧ (decode v = .ok .expandKey ∨ decode v = .ok .zeroize) := by
  obtain ⟨e, rfl⟩ | rfl | ⟨-, rfl⟩ | ⟨hr, hp⟩ := hostWrite_cases h
  · simp at hw
  · rw [State.writeStatus_eq] at hw; exact absurd rfl hw
  · simp at hw
  · obtain ⟨e, rfl | rfl⟩ | ⟨i, hd, hi, rfl | ⟨k, rfl⟩⟩ := present_cases hp
    · simp at hw
    · simp at hw
    · refine ⟨hi.idle, hr, ?_⟩
      rw [hd]
      exact (applyWrites_w hw).imp (congrArg _) (congrArg _)
    · exact absurd rfl hw

/-- R28: the host's turn changes W only by a reset, or where it presents EXPAND_KEY or ZEROIZE to an idle core. -/
theorem hostTurn_w {s u : State} (h : s.hostTurn = .next u) (hw : u.w ≠ s.w) :
    (∃ rest, s.host = .reset :: rest) ∨
    (s.inflight = none ∧ ∃ c rest, (decode c = .ok .expandKey ∨ decode c = .ok .zeroize) ∧
      (s.host = write32 0x000 c :: rest ∨ s.host = .busAccess (.write c) 32 Config.base :: rest)) := by
  obtain ⟨host, resp, d, rfl⟩ | ⟨rest, hr, -⟩ | ⟨off, v, rest, ha, hh, h⟩ := hostTurn_cases h
  · exact absurd rfl hw
  · exact .inl ⟨rest, hr⟩
  · obtain ⟨hi, hr, hd⟩ := hostWrite_w h hw
    obtain rfl : off = 0x000 := BitVec.eq_of_toNat_eq ((regAt_eq_some_iff_toNat ha .cmd).1 hr)
    exact .inr ⟨hi, v, rest, hd, hh⟩

/-- Settles O49: either the host's turn changed W, or the command that was in flight did. -/
theorem onlyExpandKeyZeroizeOrResetChangeTheSchedule :
    Obligations.OnlyExpandKeyZeroizeOrResetChangeTheSchedule := by
  intro s t h hw
  obtain ⟨u, hu, rfl⟩ := step_cases h
  by_cases huw : u.w = s.w
  · have hb : s.busy = true := by
      by_contra hn
      rw [if_neg hn] at hw
      exact hw huw
    rw [if_pos hb, ← huw] at hw
    obtain ⟨f, hf, hc⟩ := tick_w hw
    obtain hr | ⟨-, -, hi⟩ := hostTurn_busy (fun hn => by simp [State.busy, hn] at hb) hu
    · exact .inl hr
    · exact .inr (.inl ⟨f, hi ▸ hf, hc⟩)
  · obtain hr | hc := hostTurn_w hu huw
    · exact .inl hr
    · exact .inr (.inr hc)

/-- R29: the host's turn that changes KEY leaves the core idle with SCHED_VALID = 0. -/
theorem hostTurn_key {s u : State} (h : s.hostTurn = .next u) (hk : u.key ≠ s.key) :
    u.inflight = none ∧ u.schedValid = false := by
  obtain ⟨host, resp, d, rfl⟩ | ⟨rest, -, rfl⟩ | ⟨off, v, rest, -, -, h⟩ := hostTurn_cases h
  · exact absurd rfl hk
  · exact ⟨rfl, rfl⟩
  · obtain ⟨e, rfl⟩ | rfl | ⟨hi, rfl⟩ | ⟨-, hp⟩ := hostWrite_cases h
    · simp at hk
    · rw [State.writeStatus_eq] at hk; exact absurd rfl hk
    · exact ⟨by simpa using hi, (State.writeReg_key_or_invalid _ _ v).resolve_left fun hw => hk hw.1⟩
    · obtain ⟨e, rfl | rfl⟩ | ⟨i, -, hi, rfl | ⟨k, rfl⟩⟩ := present_cases hp
      · simp at hk
      · simp at hk
      · exact ⟨by simpa using hi.idle, (applyWrites_key_or_invalid _ _ i).resolve_left hk⟩
      · exact absurd rfl hk

/-- Settles O50: a KEY that the host's turn changed, or else one that the command in flight cleared. -/
theorem keyChangeInvalidatesTheSchedule : Obligations.KeyChangeInvalidatesTheSchedule := by
  intro s t h hk
  obtain ⟨u, hu, rfl⟩ := step_cases h
  by_cases huk : u.key = s.key
  · split at hk
    next hb => rw [if_pos hb]; exact (tick_key u).resolve_left (huk ▸ hk)
    next => exact absurd huk hk
  · obtain ⟨hi, hv⟩ := hostTurn_key hu huk
    rw [tick_idle hi, ite_self]
    exact hv

/-! ### CTR_KEYSTREAM and CTR_XOR (R30, R201 to R204) -/

theorem ofNat_toNat_succ_mod (n : Word) : BitVec.ofNat 32 ((n.toNat + 1) % 2 ^ 32) = n + 1 := by
  apply BitVec.eq_of_toNat_eq
  simp [BitVec.toNat_add]

/-- Settles O43. -/
theorem ctrKeystreamWritesTheKeystream : Obligations.CtrKeystreamWritesTheKeystream := by
  intro s inc hr
  rw [exec_of_ready hr, ofNat_toNat_succ_mod]
  simp [applyWrites, keystream]

/-- Settles O44. -/
theorem ctrXorWritesTheMaskedBlock : Obligations.CtrXorWritesTheMaskedBlock := by
  intro s len inc hr
  refine ⟨_, exec_of_ready hr, ?_⟩
  rw [ofNat_toNat_succ_mod]
  simp [applyWrites, keystream, xorPrefix]

/-! ### The beginning of a session (R273 steps 1 to 3) -/

/-- R29, R140, R273 steps 1 and 2: the key written, then EXPAND_KEY with its poll, at every latency. -/
theorem run_loadKey {s : State} {k : Key} {rest : List HostOp} (hi : s.inflight = none)
    (hh : s.host = Asm.loadKey k ++ rest) :
    core.run (8 + (s.nextLatency + 2)) s =
      .next (State.afterPoll (State.drawLatency
        { s with key := k, w := keyExpansion k, schedValid := true }) rest) := by
  rw [Asm.loadKey, List.append_assoc] at hh
  rw [run_add (run_wrkey hi hh)]
  exact run_cmd_poll (i := .expandKey) rfl (by decide) ⟨hi, rfl, fun h => by cases h⟩

/-- R273 step 3: NONCE and CTR_INDEX written. -/
theorem run_loadCounter {s : State} {nonce : Block} {n : Word} {rest : List HostOp} (hi : s.inflight = none)
    (hh : s.host = Asm.loadCounter nonce n ++ rest) :
    core.run 5 s = .next { s with nonce := nonce, ctrIndex := n, host := rest, resp := .done } := by
  rw [Asm.loadCounter, List.append_assoc] at hh
  exact (run_add (run_wrnonce hi hh) 1).trans (run_writes [(.ctrIndex, n)] (by simp) hi rfl)

/-- Settles O51. -/
theorem beginSessionReadiesTheCore : Obligations.BeginSessionReadiesTheCore := by
  intro s k nonce n rest hi hh
  rw [Asm.beginSession, List.append_assoc] at hh
  exact ⟨_, _, (run_add (run_loadKey hi hh) 5).trans (run_loadCounter hi rfl), rfl⟩

end Sys2Proof.Machine
end

section
/-! SUPPORT. What an access of the host answers, idle and busy, and the statements of spec/20_memory.md settled
from it. -/

namespace Sys2Proof.Machine

/-! ### The registers of the window, read (R51, R54, R55) -/

@[simp] theorem dout_offset_toNat (j : Fin 4) : (Reg.dout j).offset.toNat = 0x060 + 4 * j.val := by
  simp [Reg.offset]; omega
@[simp] theorem state_offset_toNat (j : Fin 4) : (Reg.state j).offset.toNat = 0x070 + 4 * j.val := by
  simp [Reg.offset]; omega
@[simp] theorem w_offset_toNat (i : Fin 60) : (Reg.w i).offset.toNat = 0x100 + 4 * i.val := by
  simp [Reg.offset]; omega

/-- R55: no register lies at a reserved offset. -/
theorem regAt_reserved {off : BitVec 10} (ha : off.toNat % 4 = 0)
    (h : (0x010 ≤ off.toNat ∧ off.toNat < 0x020) ∨ (0x080 ≤ off.toNat ∧ off.toNat < 0x100) ∨
      0x1F0 ≤ off.toNat) : regAt off = none := by
  refine Option.eq_none_iff_forall_ne_some.2 fun r hr => ?_
  rw [regAt_eq_some_iff_toNat ha] at hr
  cases r <;> simp [Reg.offset] at hr <;> omega

/-- R54: byte lane `b` of register word `j` of KEY. -/
theorem lane_keyLane (k : Key) (j : Fin 8) (b : Fin 4) : lane (keyLane k j) b.val = k[4 * j.val + b.val] := by
  have hm : (4 * j.val + b.val) % 4 = b.val := by omega
  have h := lane_keyLane_of k (4 * j.val + b.val) (by omega) j (by omega)
  rwa [hm] at h

/-- R54: the same of a 16-byte register. -/
theorem lane_blockLane (a : Block) (j b : Fin 4) : lane (blockLane a j) b.val = a[4 * j.val + b.val] := by
  have hm : (4 * j.val + b.val) % 4 = b.val := by omega
  have h := lane_blockLane_of a (4 * j.val + b.val) (by omega) j (by omega)
  rwa [hm] at h

/-- R54: byte lane `b` of a schedule word. -/
theorem lane_packWord (a : KWord) (b : Fin 4) : lane (packWord a) b.val = a[b] := by
  fin_cases b <;> simp [packWord]

/-! ### Reads (R58, R60, R61) -/

/-- What a register reads does not depend on the host's side. -/
theorem State.readReg_withHost (s : State) (r : Option Reg) (rest : List HostOp) :
    State.readReg { s with host := rest } r = s.readReg r := by
  unfold State.readReg
  split <;> rfl

/-- R60: the registers that read as usual while BUSY, and the reserved offsets. -/
theorem readableWhileBusy_iff (r : Option Reg) :
    readableWhileBusy r = true ↔ r ∈ [none, some .cmd, some .status, some .id] := by
  rcases r with - | r
  · simp [readableWhileBusy]
  · cases r <;> simp [readableWhileBusy]

/-- R58: a read of the register's own value: the core is idle, or it is one that reads as usual while BUSY. -/
theorem hostRead_usual {s : State} {r : Option Reg} (h : s.inflight = none ∨ readableWhileBusy r = true) :
    s.hostRead r = { s with resp := .data (s.readReg r) } := by
  obtain hi | hr := h
  · simp [State.hostRead, State.busy_of_idle hi]
  · simp [State.hostRead, hr]

/-- R60: a data read while BUSY answers the next free value. -/
theorem hostRead_busy_data {s : State} {r : Option Reg} (hb : s.busy = true) (h : ¬readableWhileBusy r = true) :
    s.hostRead r = { s with resp := .data (Config.busyRead s.draws), draws := s.draws + 1 } := by
  simp [State.hostRead, hb, h]

/-- A step with an aligned 32-bit read: the read, then the progress of a command in flight. -/
theorem step_read {s : State} {off : BitVec 10} {rest : List HostOp} (hh : s.host = read32 off :: rest)
    (ha : off.toNat % 4 = 0) : step s = .next (State.tick (State.hostRead { s with host := rest } (regAt off))) :=
  step_tick (hostTurn_read hh ha) fun hi => (State.hostRead_inflight ..).trans hi

/-- R58, R61: an aligned 32-bit read of an idle core answers the register and changes nothing of the core. -/
theorem step_read_idle {s : State} {off : BitVec 10} {rest : List HostOp} (hi : s.inflight = none)
    (hh : s.host = read32 off :: rest) (ha : off.toNat % 4 = 0) :
    step s = .next { s with host := rest, resp := .data (s.readReg (regAt off)) } := by
  rw [step_idle hi, hostTurn_read hh ha, hostRead_usual (s := { s with host := rest }) (.inl hi),
    State.readReg_withHost]

/-- Settles O19: the read answers `readReg` of the register whose offset it is, lane by lane. -/
theorem idleReadAnswersTheRegister : Obligations.IdleReadAnswersTheRegister := by
  intro s off rest hi hh ha
  have hreg (r : Reg) (h : off.toNat = r.offset.toNat) : s.readReg (regAt off) = s.readReg (some r) :=
    congrArg s.readReg ((regAt_eq_some_iff_toNat ha r).2 h)
  refine ⟨_, step_read_idle hi hh ha, hreg .cmd, hreg .status, hreg .ctrIndex, hreg .id, fun j h b => ?_,
    fun j b => ⟨fun h => ?_, fun h => ?_, fun h => ?_, fun h => ?_⟩, fun i h b => ?_,
    fun h => congrArg s.readReg (regAt_reserved ha h)⟩
  · rw [hreg (.key j) (by simpa using h)]; exact lane_keyLane s.key j b
  · rw [hreg (.nonce j) (by simpa using h)]; exact lane_blockLane s.nonce j b
  · rw [hreg (.din j) (by simpa using h)]; exact lane_blockLane s.din j b
  · rw [hreg (.dout j) (by simpa using h)]; exact lane_blockLane s.dout j b
  · rw [hreg (.state j) (by simpa using h)]; exact lane_blockLane s.state j b
  · rw [hreg (.w i) (by simpa using h)]; exact lane_packWord s.w[i] b

/-! ### Accesses while a command is in flight (R60) -/

/-- R60: a write while BUSY, other than to STATUS, is dropped and raises BUSY; CMD is no exception (R243). -/
theorem hostWrite_busy {s : State} {r : Option Reg} (hb : s.busy = true) (hr : r ≠ some .status) (v : Word) :
    s.hostWrite r v = .next (s.cmdError .busy) := by
  unfold State.hostWrite
  split
  next => simp [State.present, hb]
  next => exact absurd rfl hr
  next => rw [if_pos hb]

/-- Settles O22: reads by whether the register reads as usual, writes by whether it is STATUS. -/
theorem accessesWhileBusy : Obligations.AccessesWhileBusy := by
  intro s off rest hi ha
  have hb : s.inflight.isSome = true := Option.isSome_iff_ne_none.2 hi
  refine ⟨fun hh => ?_, fun v hh => ⟨fun ho => ?_, fun ho => ?_⟩⟩
  · rw [step_read hh ha, ← readableWhileBusy_iff]
    refine ⟨fun hr => ⟨?_, (statusWord_fields s).1.trans hb⟩, fun hr => ?_⟩
    · rw [hostRead_usual (.inr hr), State.readReg_withHost]
    · rw [hostRead_busy_data (s := { s with host := rest }) hb hr]
  · subst ho
    rw [State.writeStatus_eq]
    obtain ⟨-, hclear, -⟩ := statusRegisterReadsAndClears
    exact hclear s v rest hh
  · have hr : regAt off ≠ some .status := fun h =>
      ho (BitVec.eq_of_toNat_eq ((regAt_eq_some_iff_toNat ha .status).1 h))
    refine step_busy hb ((hostTurn_write hh ha).trans ?_)
    exact hostWrite_busy (s := { s with host := rest, resp := .done }) hb hr v

/-! ### Bus errors (R52, R53, R247) -/

/-- R52: an aligned 32-bit access answers a next state. -/
theorem access_next {s : State} {a : Access} (h : a.bits = 32 ∧ a.off.toNat % 4 = 0) :
    ∃ t, s.access a = .next t := by
  unfold State.access
  rw [if_pos h]
  cases a.kind with
  | read => exact ⟨_, rfl⟩
  | write v => exact hostWrite_next _ _ v

/-- R53: the accesses that get a bus error. -/
theorem access_eq_busError_iff (s : State) (a : Access) :
    s.access a = .fault .busError ↔ a.bits ≠ 32 ∨ a.off.toNat % 4 ≠ 0 := by
  rw [← not_and_or]
  refine ⟨fun hf h => ?_, access_bad s a⟩
  obtain ⟨t, ht⟩ := access_next (s := s) h
  rw [ht] at hf
  cases hf

/-- R53, R247: an access is never refused, and its only fault is a bus error. -/
theorem access_answers (s : State) (a : Access) : (∃ t, s.access a = .next t) ∨ s.access a = .fault .busError := by
  by_cases h : a.bits = 32 ∧ a.off.toNat % 4 = 0
  · exact .inl (access_next h)
  · exact .inr (access_bad s a h)

/-- The host's turn is never refused, and its only fault is a bus error. -/
theorem hostTurn_answers (s : State) : (∃ u, s.hostTurn = .next u) ∨ s.hostTurn = .fault .busError := by
  cases hh : s.host with
  | nil => exact .inl ⟨_, hostTurn_nil hh⟩
  | cons op rest =>
    cases op with
    | access a => rw [hostTurn_access hh]; exact access_answers _ a
    | busAccess kind bits addr =>
      cases ho : windowOffset addr with
      | none => exact .inl ⟨_, hostTurn_outside hh ho⟩
      | some off => rw [hostTurn_busAccess hh ho]; exact access_answers _ _
    | poll => exact .inl ⟨_, hostTurn_poll hh⟩
    | reset => exact .inl ⟨_, hostTurn_reset hh⟩

/-- A step answers a next state when the host's turn does. -/
theorem step_next {s u : State} (h : s.hostTurn = .next u) : ∃ t, step s = .next t := by
  unfold step
  rw [h]
  cases s.busy with
  | false => exact ⟨u, rfl⟩
  | true => exact ⟨u.tick, rfl⟩

/-- A step faults exactly when the host's turn does: the progress of a command in flight never does. -/
theorem step_eq_fault_iff (s : State) (r : Fault) : step s = .fault r ↔ s.hostTurn = .fault r := by
  unfold step
  cases s.busy <;> cases s.hostTurn <;> simp

/-- Settles O24: only the host's turn can fault, and there only the access check does. -/
theorem onlyBadAccessesGetABusError : Obligations.OnlyBadAccessesGetABusError := by
  refine ⟨fun s a rest hh => ?_, ?_, fun s => ?_⟩
  · rw [step_eq_fault_iff, hostTurn_access hh]
    exact access_eq_busError_iff _ a
  · rintro s (hh | ⟨rest, hh⟩ | ⟨rest, hh⟩)
    · exact step_next (hostTurn_nil hh)
    · exact step_next (hostTurn_poll hh)
    · exact step_next (hostTurn_reset hh)
  · exact (hostTurn_answers s).imp (fun ⟨_, hu⟩ => step_next hu) (step_eq_fault_iff s _).2

/-! ### The window (R51) -/

/-- A step is settled by the host's turn and by whether a command was in flight before it. -/
theorem step_congr {s s' : State} (hb : s.busy = s'.busy) (ht : s.hostTurn = s'.hostTurn) : step s = step s' := by
  unfold step
  rw [hb, ht]

/-- Settles O25: the host's turn is the same by bus address as by offset; outside it leaves the core. -/
theorem windowDecodesBusAddresses : Obligations.WindowDecodesBusAddresses := by
  refine ⟨Nat.mul_mod_right Config.windowSize Config.baseBlock, ?_⟩
  refine fun s kind bits addr rest hh => ⟨?_, fun ho => ?_⟩
  · rintro off rfl
    refine step_congr rfl ((hostTurn_busAccess hh (windowOffset_inside off)).trans ?_)
    rw [hostTurn_access rfl]
  · exact step_tick (hostTurn_outside hh (windowOffset_outside ho)) id

end Sys2Proof.Machine
end

section
/-! SUPPORT. What the command that OP selects shows of the word, the decoder against the encoder, and the statements of
spec/30_encoding.md settled from it. -/

namespace Sys2Proof

/-! ### The operand fields, put back in their places (R80, R82 to R84) -/
section
variable (c : Word)

theorem rndField_shifted : (rndField c).setWidth 32 <<< 8 = c &&& 0x00000F00 := by
  ext i hi; interval_cases i <;> simp [rndField]

theorem lenField_shifted : (lenField c).setWidth 32 <<< 16 = c &&& 0x001F0000 := by
  ext i hi; interval_cases i <;> simp [lenField]

theorem incField_shifted : (BitVec.ofBool (incField c)).setWidth 32 <<< 24 = c &&& 0x01000000 := by
  ext i hi; interval_cases i <;> simp [incField]

/-- R86: the fields of CTR_KEYSTREAM, CTR_XOR and ADD_ROUND_KEY lie where the masks of their rows are 0. -/
theorem fieldWord_ctrKeystream : (Instr.ctrKeystream (incField c)).fieldWord = c &&& ~~~0xFEFFFFFF :=
  (incField_shifted c).trans (congrArg (c &&& ·) (by decide))

theorem fieldWord_ctrXor : (Instr.ctrXor (lenField c) (incField c)).fieldWord = c &&& ~~~0xFEE0FFFF := by
  rw [Instr.fieldWord, lenField_shifted, incField_shifted, ← BitVec.and_or_distrib_left]
  exact congrArg (c &&& ·) (by decide)

theorem fieldWord_addRoundKey : (Instr.addRoundKey (rndField c)).fieldWord = c &&& ~~~0xFFFFF0FF :=
  (rndField_shifted c).trans (congrArg (c &&& ·) (by decide))

/-! ### The command that OP selects (R81, R86) -/

/-- R86: the commands in the order of their opcodes, with the fields of the word. -/
def commandRows : List Instr :=
  [.nop, .expandKey, .encrypt, .ctrKeystream (incField c), .ctrXor (lenField c) (incField c), .loadState,
   .storeState, .addRoundKey (rndField c), .subBytes, .shiftRows, .mixColumns, .ctrLoadBlock, .zeroize]

theorem selectOp_eq_getElem? : selectOp c = (commandRows c)[(opField c).toNat]? := by
  obtain h | h := Nat.lt_or_ge 0x0C (opField c).toNat
  · rw [selectOp_illegal c h]
    exact (List.getElem?_eq_none (Nat.succ_le_of_lt h)).symm
  · unfold selectOp
    generalize (opField c).toNat = op at h
    interval_cases op <;> rfl

end

/-- R86: the assigned opcodes select a command. -/
theorem exists_selectOp {c : Word} (h : (opField c).toNat ≤ 0x0C) : ∃ i, selectOp c = some i := by
  rw [selectOp_eq_getElem?]
  exact ⟨_, List.getElem?_eq_getElem (Nat.lt_succ_of_le h)⟩

/-- R86: the mask column, by opcode. -/
def maskColumn (op : Nat) : Word :=
  if op = 0x03 then 0xFEFFFFFF else if op = 0x04 then 0xFEE0FFFF else if op = 0x07 then 0xFFFFF0FF else 0xFFFFFFFF

section
variable {c : Word} {i : Instr}

theorem opField_of_selectOp (h : selectOp c = some i) : (opField c).toNat = i.matchWord.toNat := by
  unfold selectOp at h
  split at h <;> cases h <;> assumption

/-- R80: the fields of the selected command are the bits of the word outside the mask of its row. -/
theorem fieldWord_of_selectOp (h : selectOp c = some i) : i.fieldWord = c &&& ~~~i.maskWord := by
  unfold selectOp at h
  split at h <;> cases h
  case h_4 => exact fieldWord_ctrKeystream c
  case h_5 => exact fieldWord_ctrXor c
  case h_8 => exact fieldWord_addRoundKey c
  all_goals simp [Instr.fieldWord, Instr.maskWord]

theorem matchWord_of_selectOp (h : selectOp c = some i) : BitVec.ofNat 32 (opField c).toNat = i.matchWord := by
  rw [opField_of_selectOp h, BitVec.ofNat_toNat, BitVec.setWidth_eq]

theorem maskWord_of_selectOp (h : selectOp c = some i) : maskColumn (opField c).toNat = i.maskWord := by
  rw [opField_of_selectOp h]
  cases i <;> rfl

theorem rnd_of_selectOp {rnd : BitVec 4} (h : selectOp c = some (.addRoundKey rnd)) : rnd = rndField c := by
  rw [selectOp_addRoundKey c (opField_of_selectOp h)] at h
  cases h; rfl

theorem len_of_selectOp {len : BitVec 5} {inc : Bool} (h : selectOp c = some (.ctrXor len inc)) :
    len = lenField c := by
  rw [selectOp_ctrXor c (opField_of_selectOp h)] at h
  cases h; rfl

end

/-! ### The value checks (R82, R83) -/

theorem fieldError_addRoundKey (rnd : BitVec 4) :
    (Instr.addRoundKey rnd).fieldError = if rnd.toNat > 14 then some .badRound else none := by
  simp only [Instr.fieldError, rndLegal, decide_eq_true_eq, gt_iff_lt, ← Nat.not_le, ite_not]

theorem fieldError_ctrXor (len : BitVec 5) (inc : Bool) :
    (Instr.ctrXor len inc).fieldError =
      if len.toNat = 0 ∨ len.toNat > 16 then some .badLen else none := by
  have h : len.toNat = 0 ∨ len.toNat > 16 ↔ ¬(1 ≤ len.toNat ∧ len.toNat ≤ 16) := by omega
  simp only [Instr.fieldError, lenLegal, decide_eq_true_eq, h, ite_not]

/-- R82, R83: the value check of the selected command, by OP and the fields of the word. -/
theorem fieldError_of_selectOp {c : Word} {i : Instr} (h : selectOp c = some i) :
    i.fieldError =
      if (opField c).toNat = 0x07 ∧ (rndField c).toNat > 14 then some .badRound
      else if (opField c).toNat = 0x04 ∧ ((lenField c).toNat = 0 ∨ (lenField c).toNat > 16) then some .badLen
      else none := by
  rw [opField_of_selectOp h]
  cases i with
  | addRoundKey rnd => simp [fieldError_addRoundKey, rnd_of_selectOp h, Instr.matchWord]
  | ctrXor len inc => simp [fieldError_ctrXor, len_of_selectOp h, Instr.matchWord]
  | _ => simp [Instr.fieldError, Instr.matchWord]

/-- Settles O7: below 0x0D a command is selected, and R89 asks for its mask, its match and its value checks. -/
theorem decoderChecksInTheOrderOfR89 : Obligations.DecoderChecksInTheOrderOfR89 := by
  intro c op rnd len inc mask ops badRound badLen
  have hfits {i} (h : selectOp c = some i) : c &&& mask = BitVec.ofNat 32 op ↔ c &&& i.maskWord = i.matchWord := by
    rw [← maskWord_of_selectOp h, ← matchWord_of_selectOp h]
    rfl
  have hfield {i} (h : selectOp c = some i) :
      i.fieldError = if badRound then some .badRound else if badLen then some .badLen else none :=
    fieldError_of_selectOp h
  refine ⟨fun hop => decode_of_none (selectOp_illegal c hop), fun hop hm => ?_, fun hm hr => ?_, fun hm hl => ?_,
    fun hop hm hr hl => ?_⟩
  · obtain ⟨i, h⟩ := exists_selectOp hop
    exact decode_of_reserved h fun hi => hm ((hfits h).2 hi)
  · have h := selectOp_addRoundKey c hr.1
    exact decode_of_fieldError h ((hfits h).1 hm) ((hfield h).trans (if_pos hr))
  · have h := selectOp_ctrXor c hl.1
    have hr : ¬badRound := fun hr => absurd (hr.1.symm.trans hl.1) (by decide)
    exact decode_of_fieldError h ((hfits h).1 hm) ((hfield h).trans ((if_neg hr).trans (if_pos hl)))
  · obtain ⟨i, h⟩ := exists_selectOp hop
    exact ⟨i, (selectOp_eq_getElem? c).symm.trans h,
      decode_of_match h ((hfits h).1 hm) ((hfield h).trans ((if_neg hr).trans (if_neg hl)))⟩

/-! ### The encoder against the decoder (R85, R86, R88) -/

/-- R86: the encoded word lies in the row of its command. -/
theorem encode_and_maskWord (i : Instr) : encode i &&& i.maskWord = i.matchWord :=
  match i with
  | .nop => Laws.EncodedWordFitsRow.nop
  | .expandKey => Laws.EncodedWordFitsRow.expandKey
  | .encrypt => Laws.EncodedWordFitsRow.encrypt
  | .ctrKeystream inc => Laws.EncodedWordFitsRow.ctrKeystream inc
  | .ctrXor len inc => Laws.EncodedWordFitsRow.ctrXor len inc
  | .loadState => Laws.EncodedWordFitsRow.loadState
  | .storeState => Laws.EncodedWordFitsRow.storeState
  | .addRoundKey rnd => Laws.EncodedWordFitsRow.addRoundKey rnd
  | .subBytes => Laws.EncodedWordFitsRow.subBytes
  | .shiftRows => Laws.EncodedWordFitsRow.shiftRows
  | .mixColumns => Laws.EncodedWordFitsRow.mixColumns
  | .ctrLoadBlock => Laws.EncodedWordFitsRow.ctrLoadBlock
  | .zeroize => Laws.EncodedWordFitsRow.zeroize

/-- R80, R86: OP and the fields of the encoded word give the command back. -/
theorem selectOp_encode (i : Instr) : selectOp (encode i) = some i := by
  cases i with
  | ctrKeystream inc => revert inc; decide
  | ctrXor len inc => revert len inc; decide
  | addRoundKey rnd => revert rnd; decide
  | _ => rfl

/-- R85: a word that fits the row of the command it selects is that command's encoding: in the mask it is the match,
and outside the mask it is the fields. -/
theorem encode_of_selectOp {c : Word} {i : Instr} (h : selectOp c = some i) (hm : c &&& i.maskWord = i.matchWord) :
    encode i = c := by
  rw [encode, fieldWord_of_selectOp h, ← hm, ← BitVec.and_or_distrib_left, BitVec.or_not_self, BitVec.and_allOnes]

/-- Settles O6: an accepted word is the encoding of the command it selects, and an encoding selects its command and lies
in its row. -/
theorem decoderAcceptsExactlyTheEncodedWords : Obligations.DecoderAcceptsExactlyTheEncodedWords := by
  intro c i
  rw [decode_eq_ok_iff]
  constructor
  · rintro ⟨hs, hm, hw⟩
    exact ⟨hw, encode_of_selectOp hs hm⟩
  · rintro ⟨hw, rfl⟩
    exact ⟨selectOp_encode i, encode_and_maskWord i, hw⟩

/-- R85: the encoded word of a well-formed command decodes to it. -/
theorem decode_of_encode {c : Word} {i : Instr} (hw : i.wf = true) (h : encode i = c) : decode c = .ok i :=
  (decoderAcceptsExactlyTheEncodedWords c i).2 ⟨hw, h⟩

/-- Settles O8: each word is the encoding of a well-formed command. -/
theorem specEncodedWordsDecode : Obligations.SpecEncodedWordsDecode :=
  ⟨decode_of_encode rfl rfl, decode_of_encode rfl rfl, decode_of_encode rfl rfl, decode_of_encode rfl rfl,
    decode_of_encode rfl rfl, decode_of_encode rfl rfl, decode_of_encode rfl rfl⟩

end Sys2Proof

namespace Sys2Proof.Machine

/-! ### Words and operands that only record an error (R82, R83, R240, R243) -/

/-- R85, R87, R240: a word the decoder rejects, presented to an idle core. -/
theorem present_rejected {s : State} {c : Word} {e : CmdError} (hi : s.inflight = none)
    (hd : decode c = .error e) : s.present c = .next (s.cmdError e) := by
  simp [State.present, State.busy_of_idle hi, hd]

/-- Settles O10. -/
theorem rejectedWordOnlyRecordsItsError : Obligations.RejectedWordOnlyRecordsItsError := by
  intro s c e rest hi hh hd
  rw [step_idle hi, hostTurn_cmd hh]
  exact present_rejected (s := { s with host := rest, resp := .done }) hi hd

/-- R243: BUSY comes before every other error. -/
theorem presentError_busy {s : State} (h : s.busy = true) (i : Instr) : s.presentError i = some .busy := by
  rw [State.presentError, if_pos h]

/-- R243: on an idle core an illegal operand comes first. -/
theorem presentError_fieldError {s : State} {i : Instr} {e : CmdError} (hi : s.inflight = none)
    (he : i.fieldError = some e) : s.presentError i = some e := by
  simp [State.presentError, State.busy_of_idle hi, he]

/-- R240: a command that raises an error only records it. -/
theorem exec_of_error {s : State} {i : Instr} {e : CmdError} (h : s.presentError i = some e) :
    exec i s = .next (s.cmdError e) :=
  (exec_eq_perform i s).trans (perform_of_error h _)

/-- Settles O14. -/
theorem illegalOperandsAndBusyRaiseTheirErrors : Obligations.IllegalOperandsAndBusyRaiseTheirErrors := by
  refine fun s => ⟨fun hi => ⟨?_, fun len inc hl => ?_⟩, fun hi i => ?_⟩
  · exact exec_of_error (presentError_fieldError hi (fieldError_addRoundKey 15))
  · exact exec_of_error (presentError_fieldError hi ((fieldError_ctrXor len inc).trans (if_pos hl)))
  · exact exec_of_error (presentError_busy (Option.isSome_iff_ne_none.2 hi) i)

/-! ### One turn of `poll` (R93) -/

/-- Settles O18: bit 0 of STATUS says whether a command is in flight. -/
theorem pollRepeatsWhileBusy : Obligations.PollRepeatsWhileBusy := by
  intro s rest hh
  obtain ⟨hbusy, -⟩ := statusWord_fields s
  refine ⟨fun hi => ⟨?_, step_poll_idle hi hh⟩, fun hi => ?_⟩
  · rw [hbusy, hi]; rfl
  · obtain ⟨f, hf⟩ := Option.ne_none_iff_exists'.1 hi
    exact ⟨by rw [hbusy, hf]; rfl, step_poll_busy hf hh⟩

end Sys2Proof.Machine
end

section
/-! SUPPORT. Doubling on numbers, the multiply tables, the affine map and the inverse in GF(2^8) read off the S-box, and
the statements of spec/40_sbox_gf.md settled from them. -/

namespace Sys2Proof.Machine

/-! ### Doubling and the multiply tables (R100, R102, R105, R106) -/

/-- R102: bit 7 of a byte says whether its double leaves the byte range. -/
theorem getLsbD_seven_iff (a : Byte) : a.getLsbD 7 = true ↔ 0x100 ≤ 2 * a.toNat := by
  rw [← BitVec.msb_eq_getLsbD_last a, BitVec.msb_eq_true_iff_two_mul_ge]

/-- R102: where doubling shifts x^8 out, subtracting 0x11B from the whole product is subtracting 0x1B from its
low byte. -/
theorem xor_0x11B_of_carry {n : Nat} (hlo : 0x100 ≤ n) (hhi : n < 0x200) : n ^^^ 0x11B = n % 0x100 ^^^ 0x1B := by
  have hhigh : (n ^^^ 0x11B) / 2 ^ 8 = 0 := by
    rw [Nat.xor_div_two_pow, show n / 2 ^ 8 = 1 by omega]
    rfl
  have hlow : (n ^^^ 0x11B) % 2 ^ 8 = n % 0x100 ^^^ 0x1B := Nat.xor_mod_two_pow
  omega

/-- Settles O26. -/
theorem xtimeDoublesModulo0x11B : Obligations.XtimeDoublesModulo0x11B := by
  intro a
  have hshift : (a <<< 1).toNat = 2 * a.toNat % 0x100 := by simp [Nat.shiftLeft_eq, Nat.mul_comm]
  unfold xtime
  by_cases hc : 2 * a.toNat < 0x100
  · rw [if_neg (mt (getLsbD_seven_iff a).1 hc.not_ge), if_pos hc, hshift, Nat.mod_eq_of_lt hc]
  · rw [if_pos ((getLsbD_seven_iff a).2 (not_lt.1 hc)), if_neg hc, BitVec.toNat_xor, hshift,
      xor_0x11B_of_carry (by omega) (by omega)]
    rfl

/-- R105: the multiply-by-2 table, checked entry by entry. -/
theorem tableEntry_mul2Rows : ∀ a : Byte, tableEntry mul2Rows a = xtime a := by decide

/-- R106: the multiply-by-3 table, checked entry by entry. -/
theorem tableEntry_mul3Rows : ∀ a : Byte, tableEntry mul3Rows a = xtime a ^^^ a := by decide

/-- Settles O27. -/
theorem multiplyTablesHoldTheProducts : Obligations.MultiplyTablesHoldTheProducts :=
  fun a => ⟨tableEntry_mul2Rows a, tableEntry_mul3Rows a⟩

/-! ### The affine map, bit by bit (R108) -/

/-- Bit `i` of a byte rotated right by `r` is its bit `i + r`, counted modulo 8. -/
theorem getLsbD_rotateRight_byte (b : Byte) {r i : Nat} (hr : r < 8) (hi : i < 8) :
    (b.rotateRight r).getLsbD i = b.getLsbD ((i + r) % 8) := by
  rw [BitVec.getLsbD_rotateRight, Nat.mod_eq_of_lt hr]
  by_cases h : i < 8 - r
  · rw [Nat.mod_eq_of_lt (by omega)]
    simp [h, Nat.add_comm]
  · rw [show (i + r) % 8 = i - (8 - r) by omega]
    simp [h, hi]

theorem affine_getLsbD (b : Byte) {i : Nat} (hi : i < 8) :
    (affine b).getLsbD i =
      (b.getLsbD i ^^ b.getLsbD ((i + 4) % 8) ^^ b.getLsbD ((i + 5) % 8) ^^ b.getLsbD ((i + 6) % 8) ^^
        b.getLsbD ((i + 7) % 8) ^^ (0x63 : Byte).getLsbD i) := by
  simp only [affine, BitVec.getLsbD_xor, getLsbD_rotateRight_byte b _ hi, Nat.reduceLT]

/-- The inverse of the affine map of R108. -/
def affineInv (b : Byte) : Byte := b.rotateRight 2 ^^^ b.rotateRight 5 ^^^ b.rotateRight 7 ^^^ 0x05

theorem affine_affineInv : ∀ b : Byte, affine (affineInv b) = b := by decide

/-! ### The inverse in GF(2^8), read off the table (R104, R108, R109) -/

/-- R108: what the affine map must be applied to, to give the S-box entry of `a`. -/
def gfInv (a : Byte) : Byte := affineInv (sbox a)

theorem sbox_eq_affine_gfInv (a : Byte) : sbox a = affine (gfInv a) := (affine_affineInv _).symm

/-- R104, R108: the S-box, checked entry by entry against the multiplication. -/
theorem gmul_gfInv : ∀ a : Byte, a ≠ 0 → gmul a (gfInv a) = 1 := by decide

/-- Settles O29: the inverse is read off the table, so the multiplication is what checks the table. -/
theorem sboxIsTheAffineMapOfTheInverse : Obligations.SboxIsTheAffineMapOfTheInverse :=
  ⟨⟨gfInv, rfl, gmul_gfInv, sbox_eq_affine_gfInv⟩, fun b i => affine_getLsbD b i.isLt⟩

theorem gfInv_gfInv : ∀ a : Byte, gfInv (gfInv a) = a := by decide

/-- R109: an entry of the S-box is undone by the inverse of the affine map and then the inverse in GF(2^8). -/
theorem sbox_leftInverse : Function.LeftInverse (fun y => gfInv (affineInv y)) sbox := gfInv_gfInv

theorem sbox_ne_self_ne_complement : ∀ a : Byte, sbox a ≠ a ∧ sbox a ≠ a ^^^ 0xFF := by decide

/-- Settles O28: the S-box has a left inverse, so it is one to one. -/
theorem sboxIsAPermutationWithoutFixedPoints : Obligations.SboxIsAPermutationWithoutFixedPoints :=
  ⟨fun _ _ h => sbox_leftInverse.injective h, sbox_ne_self_ne_complement, rfl, rfl, rfl, rfl, rfl⟩

end Sys2Proof.Machine
end

section
/-! SUPPORT. The bytes of the word functions and of a round key, the words of the expanded key, and the statements of
spec/41_key_schedule.md settled from them. -/

namespace Sys2Proof.Machine

/-! ### The word functions, byte by byte (R131 to R133) -/
section
variable (a b : KWord)

@[simp] theorem xorWord_getElem (k : Nat) (hk : k < 4) : (xorWord a b)[k] = a[k] ^^^ b[k] := Vector.getElem_ofFn hk

@[simp] theorem subWord_getElem (k : Nat) (hk : k < 4) : (subWord a)[k] = sbox a[k] := Vector.getElem_ofFn hk

/-- R131: "left" is toward byte index 0. -/
@[simp] theorem rotWord_getElem (k : Nat) (hk : k < 4) : (rotWord a)[k] = a[(k + 1) % 4] := by
  match k with
  | 0 | 1 | 2 | 3 => rfl

end

/-- R133: the seven round constants are the powers of two, and only byte 0 of the word is not zero. -/
theorem rcon_getElem : ∀ (j : Fin 7) (k : Fin 4), (rcon j.val)[k] = if k.val = 0 then 1 <<< j.val else 0 := by
  decide

/-- R130: byte `k` of word `i`. -/
theorem keyWord_getElem (key : Key) (i : Fin 8) (k : Fin 4) : (keyWord key i)[k] = key[4 * i.val + k.val] := by
  match k with
  | 0 | 1 | 2 | 3 => rfl

/-! ### One word of the expansion, by the three cases of R134 -/
section
variable {i : Nat} (back8 back1 : KWord) (k : Fin 4)

theorem expandWord_getElem_of_mod_zero (h8 : 8 ≤ i) (h60 : i < 60) (h : i % 8 = 0) :
    (expandWord i back8 back1)[k] =
      back8[k] ^^^ sbox back1[(k.val + 1) % 4] ^^^ (if k.val = 0 then 1 <<< (i / 8 - 1) else 0) := by
  have hj : i / 8 - 1 < 7 := by omega
  rw [← rcon_getElem ⟨i / 8 - 1, hj⟩ k]
  simp [expandWord, h]

theorem expandWord_getElem_of_mod_four (h : i % 8 = 4) :
    (expandWord i back8 back1)[k] = back8[k] ^^^ sbox back1[k] := by
  simp [expandWord, h]

theorem expandWord_getElem_of_mod_other (h0 : i % 8 ≠ 0) (h4 : i % 8 ≠ 4) :
    (expandWord i back8 back1)[k] = back8[k] ^^^ back1[k] := by
  simp [expandWord, h0, h4]

end

/-! ### The words of the expanded key (R134, R136) -/
section
variable (key : Key)

/-- R136: expanding by `m` more words puts them before the words there were. -/
theorem expandRev_add_getD (n m k : Nat) (d : KWord) :
    (expandRev key (n + m)).getD (m + k) d = (expandRev key n).getD k d := by
  induction m with
  | zero => simp
  | succ m ih => rw [← ih, Nat.add_right_comm m 1 k]; exact List.getD_cons_succ

/-- R136: word `i` of the schedule can be read off any expansion that has reached it. -/
theorem keyExpansion_getElem {i n : Nat} (hi : i ≤ n + 7) (hn : n ≤ 52) :
    (keyExpansion key)[i] = (expandRev key n).getD (n + 7 - i) (Vector.replicate 4 0) := by
  have hpos : 52 - n + (n + 7 - i) = 59 - i := by omega
  rw [← expandRev_add_getD key n (52 - n), Nat.add_sub_cancel' hn, hpos]
  exact Vector.getElem_ofFn _

theorem keyExpansion_getElem_of_lt (i : Fin 8) : (keyExpansion key)[i.val] = keyWord key i := by
  rw [keyExpansion_getElem key (n := 0) (by omega) (by omega)]
  match i with
  | 0 | 1 | 2 | 3 | 4 | 5 | 6 | 7 => rfl

/-- R134: a word after the first eight, from the words eight and one before it. -/
theorem keyExpansion_getElem_of_ge (i : Nat) (h8 : 8 ≤ i) (h60 : i < 60) :
    (keyExpansion key)[i] = expandWord i (keyExpansion key)[i - 8] (keyExpansion key)[i - 1] := by
  obtain ⟨n, rfl⟩ := Nat.exists_eq_add_of_le' h8
  rw [keyExpansion_getElem key (i := n + 8) (n := n + 1) (by omega) (by omega),
    keyExpansion_getElem key (i := n + 8 - 8) (n := n) (by omega) (by omega),
    keyExpansion_getElem key (i := n + 8 - 1) (n := n) (by omega) (by omega)]
  simp [expandRev]

end

/-- Settles O30, by the recurrence of the words and the bytes of one expanded word. -/
theorem keyExpansionFollowsTheWordRule : Obligations.KeyExpansionFollowsTheWordRule := by
  rintro key w rfl
  refine ⟨fun i k => ?_, fun i h8 h60 => ?_⟩
  · rw [keyExpansion_getElem_of_lt, keyWord_getElem]
  · rw [keyExpansion_getElem_of_ge key i h8 h60]
    exact ⟨fun h k => expandWord_getElem_of_mod_zero _ _ k h8 h60 h,
      fun h k => expandWord_getElem_of_mod_four _ _ k h, fun h0 h4 k => expandWord_getElem_of_mod_other _ _ k h0 h4⟩

/-- Settles O31: EXPAND_KEY, being ready, applies its writes. -/
theorem expandKeyWritesTheSchedule : Obligations.ExpandKeyWritesTheSchedule := fun _ hr => exec_of_ready hr

/-! ### Round keys (R138, R161) -/

@[simp] theorem roundKey_getElem (w : Schedule) (r : Fin 15) (k : Nat) (hk : k < 16) :
    (roundKey w r)[k] = w[4 * r.val + k / 4][k % 4] := Vector.getElem_ofFn hk

@[simp] theorem addRoundKey_getElem (a b : Block) (k : Nat) (hk : k < 16) :
    (addRoundKey a b)[k] = a[k] ^^^ b[k] := Vector.getElem_ofFn hk

/-- R82: RND names the round key whose number it holds. -/
theorem roundIndex_ofNat : ∀ r : Fin 15, roundIndex (BitVec.ofNat 4 r.val) = r := by decide

/-- Settles O35, byte for byte from the round key that RND names. -/
theorem addRoundKeyXorsTheRoundKey : Obligations.AddRoundKeyXorsTheRoundKey := by
  intro s r hr
  refine ⟨_, exec_of_ready hr, rfl, fun k => ?_⟩
  simp [applyWrites, roundIndex_ofNat]

end Sys2Proof.Machine
end

section
/-! SUPPORT. The bytes of the round primitives, the rounds of the cipher, commands run one after another, and the
statements of spec/42_round_transform.md settled from them. -/

namespace Sys2Proof.Machine

/-! ### The round primitives, byte by byte (R161 to R164) -/
section
variable (b k : Block)

@[simp] theorem subBytes_getElem (i : Nat) (hi : i < 16) : (subBytes b)[i] = sbox b[i] := Vector.getElem_ofFn hi

/-- R163: row `r` of the new column `c` comes from column `c + r`. -/
theorem shiftRows_getElem (r c : Fin 4) :
    (shiftRows b)[r.val + 4 * c.val] = b[r.val + 4 * ((c.val + r.val) % 4)] := by
  have hrow : (r.val + 4 * c.val) % 4 = r.val := by omega
  have hcol : (r.val + 4 * c.val) / 4 = c.val := by omega
  simp only [shiftRows, Vector.getElem_ofFn, hrow, hcol]

/-- R164: byte `k` of the new column `c`, from the old bytes of that column. -/
theorem mixColumns_getElem (c k : Fin 4) :
    (mixColumns b)[4 * c.val + k.val] =
      mixByte b[4 * c.val] b[4 * c.val + 1] b[4 * c.val + 2] b[4 * c.val + 3] k.val := by
  have hrow : (4 * c.val + k.val) % 4 = k.val := by omega
  have hcol : (4 * c.val + k.val) / 4 = c.val := by omega
  simp only [mixColumns, Vector.getElem_ofFn, hrow, hcol]

/-- R161: a round key XORed in twice cancels. -/
theorem addRoundKey_addRoundKey_same : addRoundKey (addRoundKey b k) k = b := by
  ext1 i hi
  simp

/-- R163: `n` row shifts move row `r` by `n * r`. -/
theorem shiftRows_iterate_getElem (n : Nat) (r c : Fin 4) :
    (shiftRows^[n] b)[r.val + 4 * c.val] = b[r.val + 4 * ((c.val + n * r.val) % 4)] := by
  induction n generalizing b with
  | zero => simp [Nat.mod_eq_of_lt c.isLt]
  | succ n ih =>
    have hcol : ((c.val + n * r.val) % 4 + r.val) % 4 = (c.val + (n + 1) * r.val) % 4 := by
      rw [Nat.mod_add_mod, Nat.succ_mul, Nat.add_assoc]
    rw [Function.iterate_succ_apply, ih]
    simp only [shiftRows_getElem b r ⟨(c.val + n * r.val) % 4, by omega⟩, hcol]

/-- R163: four row shifts move every row by a multiple of its length. -/
theorem shiftRows_four : shiftRows^[4] b = b := by
  ext1 i hi
  have h := shiftRows_iterate_getElem b 4 ⟨i % 4, by omega⟩ ⟨i / 4, by omega⟩
  have hi' : i % 4 + 4 * (i / 4) = i := Nat.mod_add_div i 4
  have hcol : (i / 4 + 4 * (i % 4)) % 4 = i / 4 := by omega
  simpa only [hcol, hi'] using h

end

/-! ### The rounds of the cipher (R165) -/

/-- R165: the block after round `r`, for r from 0 to 13. -/
def blockAfterRound (blk : Block) (w : Schedule) : Nat → Block
  | 0 => addRoundKey blk (roundKey w 0)
  | r + 1 => cipherRound w (blockAfterRound blk w r) (Fin.ofNat 15 (r + 1))

theorem blockAfterRound_of_pos (blk : Block) (w : Schedule) (r : Fin 15) (h : 1 ≤ r.val) :
    blockAfterRound blk w r.val = cipherRound w (blockAfterRound blk w (r.val - 1)) r := by
  obtain ⟨n, hn⟩ := Nat.exists_eq_add_of_le' h
  have hr : Fin.ofNat 15 (n + 1) = r := by rw [← hn, Fin.ofNat_val_eq_self]
  rw [hn, blockAfterRound, hr, Nat.add_sub_cancel]

/-- R165: the cipher is its last round on the block after round 13. -/
theorem cipher_eq_finalRound (blk : Block) (w : Schedule) :
    cipher blk w = finalRound w (blockAfterRound blk w 13) := rfl

/-- Settles O32, with the blocks after each round as the sequence. -/
theorem cipherRunsFourteenRounds : Obligations.CipherRunsFourteenRounds :=
  fun blk w => ⟨blockAfterRound blk w, rfl, fun r h _ => blockAfterRound_of_pos blk w r h, cipher_eq_finalRound blk w⟩

/-! ### One command (R170 to R176) -/

/-- Settles O33. -/
theorem encryptWritesTheCipherOfDin : Obligations.EncryptWritesTheCipherOfDin := fun _ hr => exec_of_ready hr

/-- Settles O34. -/
theorem loadAndStoreStateCopyTheBlock : Obligations.LoadAndStoreStateCopyTheBlock :=
  fun _ => ⟨exec_of_ready, exec_of_ready⟩

/-- Settles O36. -/
theorem subBytesReplacesEachByte : Obligations.SubBytesReplacesEachByte :=
  fun s hr => ⟨_, exec_of_ready hr, rfl, fun i => subBytes_getElem s.state i.val i.isLt⟩

/-- Settles O37. -/
theorem shiftRowsRotatesEachRow : Obligations.ShiftRowsRotatesEachRow :=
  fun s hr => ⟨_, exec_of_ready hr, rfl, shiftRows_getElem s.state⟩

/-- Settles O38, one row of the matrix for each byte of the column. -/
theorem mixColumnsMixesEachColumn : Obligations.MixColumnsMixesEachColumn := by
  intro s hr
  refine ⟨_, exec_of_ready hr, rfl, fun c => ?_⟩
  have hcol := mixColumns_getElem s.state c
  exact ⟨hcol 0, hcol 1, hcol 2, hcol 3⟩

/-! ### Commands one after another (R177) -/

/-- A command for which the core is ready applies its writes, and the commands after it go on from there. -/
theorem runCommands_of_ready {s : State} {i : Instr} (h : s.Ready i) (l : List Instr) :
    runCommands (i :: l) s = runCommands l (applyWrites i s.live s) := by
  rw [runCommands, exec_of_ready h]

/-- `s` with the block `b` in STATE: what the commands of R173 to R176 leave of `s` is of this form. -/
def State.withState (s : State) (b : Block) : State := { s with state := b }

theorem State.Ready.withState {s : State} {i : Instr} (h : s.Ready i) (b : Block) : (s.withState b).Ready i :=
  ⟨h.idle, h.legal, h.schedule⟩

section
variable {s : State} (b : Block) (l : List Instr)

theorem runCommands_addRoundKey {r : BitVec 4} (h : s.Ready (.addRoundKey r)) :
    runCommands (.addRoundKey r :: l) (s.withState b) =
      runCommands l (s.withState (addRoundKey b (roundKey s.w (roundIndex r)))) :=
  runCommands_of_ready (h.withState b) l

theorem runCommands_subBytes (h : s.Ready .subBytes) :
    runCommands (.subBytes :: l) (s.withState b) = runCommands l (s.withState (subBytes b)) :=
  runCommands_of_ready (h.withState b) l

theorem runCommands_shiftRows (h : s.Ready .shiftRows) :
    runCommands (.shiftRows :: l) (s.withState b) = runCommands l (s.withState (shiftRows b)) :=
  runCommands_of_ready (h.withState b) l

theorem runCommands_mixColumns (h : s.Ready .mixColumns) :
    runCommands (.mixColumns :: l) (s.withState b) = runCommands l (s.withState (mixColumns b)) :=
  runCommands_of_ready (h.withState b) l

end

/-- Settles O40. -/
theorem roundKeyAndRowShiftsUndoThemselves : Obligations.RoundKeyAndRowShiftsUndoThemselves := by
  refine ⟨fun s r hr => ?_, fun s hi => ?_⟩
  · change runCommands _ (s.withState s.state) = _
    rw [runCommands_addRoundKey _ _ hr, runCommands_addRoundKey _ _ hr, addRoundKey_addRoundKey_same]
    rfl
  · have hr : s.Ready .shiftRows := ⟨hi, rfl, fun h => by cases h⟩
    change runCommands _ (s.withState s.state) = runCommands [] (s.withState s.state)
    simp only [runCommands_shiftRows _ _ hr]
    exact congrArg (fun b => runCommands [] (s.withState b)) (shiftRows_four s.state)

/-- R165, R177: the RND values of the rounds with MixColumns. -/
def fullRounds : List (BitVec 4) := [1, 2, 3, 4, 5, 6, 7, 8, 9, 10, 11, 12, 13]

/-- R165, R177: the commands of one of the rounds 1 to 13. -/
def roundCommands (r : BitVec 4) : List Instr := [.subBytes, .shiftRows, .mixColumns, .addRoundKey r]

theorem stepCommands_eq :
    Asm.stepCommands = .loadState :: .addRoundKey 0 ::
      (fullRounds.flatMap roundCommands ++ [.subBytes, .shiftRows, .addRoundKey 14, .storeState]) := rfl

/-- R165: the cipher with its round keys named by RND, as the step commands name them. -/
theorem cipher_eq_foldl_fullRounds (blk : Block) (w : Schedule) :
    cipher blk w = finalRound w
      ((fullRounds.map roundIndex).foldl (cipherRound w) (addRoundKey blk (roundKey w (roundIndex 0)))) := rfl

section
variable {s : State} (hr : s.Ready .encrypt)
include hr

/-- R242: a core ready for ENCRYPT has a valid schedule, so it is ready for every well-formed command. -/
theorem State.Ready.of_encrypt {i : Instr} (hw : i.wf = true) : s.Ready i :=
  ⟨hr.idle, hw, fun _ => hr.schedule rfl⟩

/-- R165: the commands of a round put the block of STATE through that round. -/
theorem runCommands_roundCommands {r : BitVec 4} (hw : rndLegal r = true) (b : Block) (l : List Instr) :
    runCommands (roundCommands r ++ l) (s.withState b) =
      runCommands l (s.withState (cipherRound s.w b (roundIndex r))) := by
  simp only [roundCommands, List.cons_append, List.nil_append]
  rw [runCommands_subBytes _ _ (hr.of_encrypt rfl), runCommands_shiftRows _ _ (hr.of_encrypt rfl),
    runCommands_mixColumns _ _ (hr.of_encrypt rfl), runCommands_addRoundKey _ _ (hr.of_encrypt hw), cipherRound]

theorem runCommands_rounds (rs : List (BitVec 4)) (hw : ∀ r ∈ rs, rndLegal r = true) (b : Block) (l : List Instr) :
    runCommands (rs.flatMap roundCommands ++ l) (s.withState b) =
      runCommands l (s.withState ((rs.map roundIndex).foldl (cipherRound s.w) b)) := by
  induction rs generalizing b with
  | nil => rfl
  | cons r rs ih =>
    rw [List.flatMap_cons, List.append_assoc, runCommands_roundCommands hr (hw r List.mem_cons_self),
      ih fun q hq => hw q (List.mem_cons_of_mem r hq), List.map_cons, List.foldl_cons]

/-- R165: the commands of round 14 put the block of STATE through the last round. -/
theorem runCommands_finalRound (b : Block) (l : List Instr) :
    runCommands (.subBytes :: .shiftRows :: .addRoundKey 14 :: l) (s.withState b) =
      runCommands l (s.withState (finalRound s.w b)) := by
  rw [runCommands_subBytes _ _ (hr.of_encrypt rfl), runCommands_shiftRows _ _ (hr.of_encrypt rfl),
    runCommands_addRoundKey _ _ (hr.of_encrypt rfl)]
  rfl

end

/-- Settles O39: the step commands carry DIN through the rounds of the cipher. -/
theorem stepCommandsComposeToEncrypt : Obligations.StepCommandsComposeToEncrypt := by
  intro s hr
  have hload (l : List Instr) : runCommands (.loadState :: l) s = runCommands l (s.withState s.din) :=
    runCommands_of_ready (hr.of_encrypt rfl) l
  rw [stepCommands_eq, hload, runCommands_addRoundKey _ _ (hr.of_encrypt rfl),
    runCommands_rounds hr fullRounds (by decide), runCommands_finalRound hr, ← cipher_eq_foldl_fullRounds,
    runCommands_of_ready ((hr.of_encrypt rfl).withState _), exec_of_ready hr]
  rfl

/-! ### A block encrypted in a session (R273 step 4) -/

/-- R33, R170, R280: ENCRYPT with its poll, at every latency. -/
theorem run_encrypt_poll {s : State} {rest : List HostOp} (hr : s.Ready .encrypt)
    (hh : s.host = Asm.cmd .encrypt :: .poll :: rest) :
    core.run (s.nextLatency + 2) s =
      .next (State.afterPoll (State.drawLatency
        { s with state := cipher s.din s.w, dout := cipher s.din s.w }) rest) :=
  run_cmd_poll hh (decode_of_encode rfl rfl) hr

/-- R273 step 4 with ENCRYPT: DIN written, the command run to its end, DOUT read. -/
theorem run_encryptBlock {s : State} {data : Block} {rest : List HostOp} (hi : s.inflight = none)
    (hv : s.schedValid = true) (hh : s.host = Asm.encryptBlock data ++ rest) :
    core.run (4 + (s.nextLatency + 2 + 4)) s = .next { s.drawLatency with
      din := data, dout := cipher data s.w, state := cipher data s.w
      host := rest, resp := .data (blockLane (cipher data s.w) 3) } := by
  rw [Asm.encryptBlock, Asm.runBlock, List.append_assoc, List.append_assoc] at hh
  have hr : State.Ready
      { s with din := data, host := [Asm.cmd .encrypt, .poll] ++ (Asm.rdout ++ rest), resp := .done } .encrypt :=
    ⟨hi, rfl, fun _ => hv⟩
  exact (run_add (run_wrdin hi hh) _).trans <| (run_add (run_encrypt_poll hr rfl) 4).trans <| run_rdout hi rfl

/-- Settles O53. -/
theorem encryptBlockLeavesTheCipher : Obligations.EncryptBlockLeavesTheCipher :=
  fun _ _ _ hi hv hh => ⟨_, _, run_encryptBlock hi hv hh, rfl⟩

end Sys2Proof.Machine
end

section
/-! SUPPORT. The bytes of the counter block and of the masked block, a chunk transformed in a session, and the
statements of spec/43_ctr_mode.md settled from them. -/

namespace Sys2Proof.Machine

/-! ### The counter block (R200) -/
section
variable (nonce : Block) (n : Word)

/-- R200: byte `k` of the index goes into nonce byte `k`, for k from 0 to 3. -/
theorem counterBlock_getElem_of_lt {k : Nat} (hk : k < 4) :
    (counterBlock nonce n)[k] = nonce[k] ^^^ indexByte n k := by
  simp [counterBlock, hk]

/-- R200: the nonce bytes from 4 on stay. -/
theorem counterBlock_getElem_of_le {k : Nat} (hk : k < 16) (h4 : 4 ≤ k) : (counterBlock nonce n)[k] = nonce[k] := by
  simp [counterBlock, Nat.not_lt.2 h4]

end

/-- R200: the four big-endian bytes are the whole index: bit `i` stands in byte `3 - i / 8`. -/
theorem eq_of_indexByte_eq {n m : Word} (h : ∀ k < 4, indexByte n k = indexByte m k) : n = m := by
  refine BitVec.eq_of_getLsbD_eq fun i hi => ?_
  have hpos : 8 * (3 - (3 - i / 8)) + i % 8 = i := by omega
  have hbit := congrArg (BitVec.getLsbD · (i % 8)) (h (3 - i / 8) (by omega))
  simpa [indexByte, BitVec.getLsbD_extractLsb', Nat.mod_lt, hpos] using hbit

/-- Settles O41. -/
theorem counterBlockXorsTheIndexIntoFourBytes : Obligations.CounterBlockXorsTheIndexIntoFourBytes := by
  intro s hr
  have hlow {k : Nat} (hk : k < 4) := counterBlock_getElem_of_lt s.nonce s.ctrIndex hk
  exact ⟨_, exec_of_ready hr, rfl, hlow (k := 0) (by decide), hlow (k := 1) (by decide), hlow (k := 2) (by decide),
    hlow (k := 3) (by decide), fun k => counterBlock_getElem_of_le s.nonce s.ctrIndex k.isLt⟩

/-- Settles O42: XOR with the nonce byte cancels, and the index bytes determine the index. -/
theorem counterBlockIsOneToOneInTheIndex : Obligations.CounterBlockIsOneToOneInTheIndex := by
  intro nonce n m h
  refine eq_of_indexByte_eq fun k hk => ?_
  have hbyte : (counterBlock nonce n)[k] = (counterBlock nonce m)[k] := by rw [h]
  rwa [counterBlock_getElem_of_lt nonce n hk, counterBlock_getElem_of_lt nonce m hk, BitVec.xor_right_inj] at hbyte

/-! ### The masked block (R202, R204) -/
section
variable (len : Nat) (data ks : Block)

theorem xorPrefix_getElem_of_lt {j : Nat} (hj : j < 16) (hl : j < len) :
    (xorPrefix len data ks)[j] = data[j] ^^^ ks[j] := by
  simp [xorPrefix, hl]

/-- R202: the keystream XORed in twice cancels. -/
theorem xorPrefix_xorPrefix_getElem {j : Nat} (hj : j < 16) (hl : j < len) :
    (xorPrefix len (xorPrefix len data ks) ks)[j] = data[j] := by
  rw [xorPrefix_getElem_of_lt _ _ _ hj hl, xorPrefix_getElem_of_lt _ _ _ hj hl, BitVec.xor_assoc, BitVec.xor_self,
    BitVec.xor_zero]

end

/-- Settles O45: both runs take the keystream of the same NONCE, index and W. -/
theorem ctrXorTwiceRestoresTheData : Obligations.CtrXorTwiceRestoresTheData := by
  intro s t len inc inc' hr ht
  obtain rfl : applyWrites (.ctrXor len inc) s.live s = t := by simpa [exec_of_ready hr] using ht
  refine ⟨_, exec_of_ready ⟨?_, hr.legal, fun _ => ?_⟩, fun j hj => ?_⟩
  · simpa using hr.idle
  · simpa [applyWrites] using hr.schedule rfl
  · simpa [applyWrites] using xorPrefix_xorPrefix_getElem len.toNat s.din (keystream s.nonce s.ctrIndex s.w) j.isLt hj

/-! ### A chunk transformed in a session (R206, R273 step 4) -/

theorem padBlock_getElem (chunk : List Byte) {j : Nat} (hj : j < 16) (hc : j < chunk.length) :
    (Asm.padBlock chunk)[j] = chunk[j] := by
  simp [Asm.padBlock, hc]

/-- R33, R204, R280: CTR_XOR with INC = 1 and its poll, at every latency. -/
theorem run_ctrXor_poll {s : State} {len : BitVec 5} {rest : List HostOp} (hr : s.Ready (.ctrXor len true))
    (hh : s.host = Asm.cmd (.ctrXor len true) :: .poll :: rest) :
    core.run (s.nextLatency + 2) s =
      .next (State.afterPoll (State.drawLatency { s with
        state := keystream s.nonce s.ctrIndex s.w
        dout := xorPrefix len.toNat s.din (keystream s.nonce s.ctrIndex s.w)
        ctrIndex := s.ctrIndex + 1 }) rest) :=
  run_cmd_poll hh (decode_of_encode hr.legal rfl) hr

/-- R206, R273 step 4 with CTR_XOR: DIN written, the command run to its end, DOUT read. -/
theorem run_ctrXorBlock {s : State} {len : BitVec 5} {data : Block} {rest : List HostOp} (hi : s.inflight = none)
    (hv : s.schedValid = true) (hl : lenLegal len = true)
    (hh : s.host = Asm.runBlock (.ctrXor len true) data ++ rest) :
    core.run (4 + (s.nextLatency + 2 + 4)) s = .next { s.drawLatency with
      din := data
      dout := xorPrefix len.toNat data (keystream s.nonce s.ctrIndex s.w)
      state := keystream s.nonce s.ctrIndex s.w
      ctrIndex := s.ctrIndex + 1
      host := rest
      resp := .data (blockLane (xorPrefix len.toNat data (keystream s.nonce s.ctrIndex s.w)) 3) } := by
  rw [Asm.runBlock, List.append_assoc, List.append_assoc] at hh
  have hr : State.Ready { s with
      din := data, host := [Asm.cmd (.ctrXor len true), .poll] ++ (Asm.rdout ++ rest), resp := .done }
      (.ctrXor len true) := ⟨hi, hl, fun _ => hv⟩
  exact (run_add (run_wrdin hi hh) _).trans <| (run_add (run_ctrXor_poll hr rfl) 4).trans <| run_rdout hi rfl

/-- Settles O52: the length of the chunk is a legal LEN, and the padding lies beyond it. -/
theorem transformChunkMasksTheChunk : Obligations.TransformChunkMasksTheChunk := by
  intro s chunk rest hi hv h1 h16 hh
  have hlen : (BitVec.ofNat 5 chunk.length).toNat = chunk.length := Nat.mod_eq_of_lt (by omega)
  have hl : lenLegal (BitVec.ofNat 5 chunk.length) = true := decide_eq_true (by rw [hlen]; exact ⟨h1, h16⟩)
  refine ⟨_, _, run_ctrXorBlock hi hv hl hh, hi, rfl, rfl, rfl, rfl, hv, rfl, rfl,
    (ofNat_toNat_succ_mod s.ctrIndex).symm, rfl, fun j hj => ?_⟩
  have hdin := padBlock_getElem chunk j.isLt hj
  rw [← hdin]
  exact ⟨rfl, xorPrefix_getElem_of_lt _ _ _ j.isLt (hlen.symm ▸ hj)⟩

end Sys2Proof.Machine
end

section
/-! SUPPORT. What ZEROIZE leaves of an idle core, and the statements of spec/44_control.md and of the end of a
session settled from it. -/

namespace Sys2Proof.Machine

/-- Settles O46. -/
theorem nopDoesNothing : Obligations.NopDoesNothing := fun _ hr => exec_of_ready hr

/-- R231: on an idle core, the writes of ZEROIZE are a reset of the core that keeps the error record. -/
theorem applyWrites_zeroize {s : State} (hi : s.inflight = none) (src : Snapshot) :
    applyWrites .zeroize src s = { s.resetCore with err := s.err, errCode := s.errCode } := by
  simp [applyWrites, State.resetCore, State.reset, hi]

/-- Settles O47. -/
theorem zeroizeClearsAllButTheErrorRecord : Obligations.ZeroizeClearsAllButTheErrorRecord := by
  intro s hr
  rw [exec_of_ready hr, applyWrites_zeroize hr.idle]
  rfl

/-- R33, R231, R280, R273 step 6: ZEROIZE with its poll, at every latency. -/
theorem run_endSession {s : State} {rest : List HostOp} (hi : s.inflight = none)
    (hh : s.host = Asm.endSession ++ rest) :
    core.run (s.nextLatency + 2) s =
      .next (State.afterPoll (State.drawLatency
        { s.resetCore with err := s.err, errCode := s.errCode }) rest) := by
  have hr : s.Ready .zeroize := ⟨hi, rfl, fun h => by cases h⟩
  rw [← applyWrites_zeroize hi s.live]
  exact run_cmd_poll hh (decode_of_encode rfl rfl) hr

/-- Settles O55. -/
theorem endSessionClearsTheCore : Obligations.EndSessionClearsTheCore :=
  fun _ _ hi hh => ⟨_, _, run_endSession hi hh, rfl⟩

end Sys2Proof.Machine
end

section
/-! SUPPORT. What an error records, when NO_SCHEDULE is the first error that applies, and the statements of
spec/60_exceptions.md settled from them. -/

namespace Sys2Proof.Machine

/-! ### The error record (R241, R244) -/
section
variable {s : State} (e : CmdError)

/-- R244: an error already recorded is kept. -/
theorem cmdError_of_recorded (h : s.err = true) : s.cmdError e = s := if_pos h

/-- R241: the first error since the last clear is recorded with its code. -/
theorem cmdError_of_clear (h : s.err = false) : s.cmdError e = { s with err := true, errCode := errorCode e } :=
  if_neg (Bool.eq_false_iff.1 h)

end

/-- Settles O11. -/
theorem firstErrorIsKept : Obligations.FirstErrorIsKept :=
  fun _ => ⟨fun h e => cmdError_of_recorded e h, fun h =>
    ⟨cmdError_of_clear .illegalOp h, cmdError_of_clear .reservedBits h, cmdError_of_clear .badRound h,
      cmdError_of_clear .badLen h, cmdError_of_clear .noSchedule h, cmdError_of_clear .busy h⟩⟩

/-! ### Commands without a schedule (R242) -/

/-- R242, R243: past BUSY and the value checks, a command that reads W needs the schedule. -/
theorem presentError_noSchedule {s : State} {i : Instr} (hi : s.inflight = none) (hw : i.wf = true)
    (hn : needsSchedule i = true) (hv : s.schedValid = false) : s.presentError i = some .noSchedule := by
  simp [State.presentError, State.busy_of_idle hi, (fieldError_eq_none_iff i).2 hw, hn, hv]

/-- Settles O13. -/
theorem scheduleCommandsRaiseNoSchedule : Obligations.ScheduleCommandsRaiseNoSchedule := by
  intro s hi hv
  have hraise {i : Instr} (hw : i.wf = true) (hn : needsSchedule i = true) :
      exec i s = .next (s.cmdError .noSchedule) := exec_of_error (presentError_noSchedule hi hw hn hv)
  exact ⟨hraise rfl rfl, fun _ => hraise rfl rfl, fun _ _ h1 h16 => hraise (decide_eq_true ⟨h1, h16⟩) rfl,
    fun _ h14 => hraise (decide_eq_true h14) rfl⟩

/-! ### A presented word (R240, R243) -/

/-- R243, R276: any word presented while a command is in flight raises BUSY. -/
theorem present_busy {s : State} (h : s.inflight ≠ none) (c : Word) : s.present c = .next (s.cmdError .busy) :=
  if_pos (Option.isSome_iff_ne_none.2 h)

section
variable {s : State} {c : Word} {i : Instr}

/-- R240, R242: a word that decodes to a command without its schedule. -/
theorem present_noSchedule (hi : s.inflight = none) (hd : decode c = .ok i) (hn : needsSchedule i = true)
    (hv : s.schedValid = false) : s.present c = .next (s.drawLatency.cmdError .noSchedule) := by
  obtain ⟨-, -, hw⟩ := decode_eq_ok_iff.1 hd
  have hnr : ¬s.Ready i := fun hr => Bool.false_ne_true (hv.symm.trans (hr.schedule hn))
  rw [present_exec hi hd (.inr hnr)]
  exact exec_of_error (presentError_noSchedule hi hw hn hv)

/-- R33: a word that an idle core accepts at latency 0 applies its writes at once. -/
theorem present_at_once (hd : decode c = .ok i) (hk : s.nextLatency = 0) (hr : s.Ready i) :
    s.present c = .next (applyWrites i s.live s.drawLatency) := by
  rw [present_exec hr.idle hd (.inl hk)]
  exact exec_of_ready hr.drawLatency

end

/-- Settles O12: BUSY, then the decoder's errors, then NO_SCHEDULE; a core that raises none is ready. -/
theorem presentedWordRaisesTheFirstErrorThatApplies : Obligations.PresentedWordRaisesTheFirstErrorThatApplies := by
  refine fun s c => ⟨fun hb => present_busy hb c, fun hi => ⟨fun e he => present_rejected hi he, fun i hd => ?_⟩⟩
  refine ⟨fun hn hv => present_noSchedule hi hd hn hv, fun hs => ?_⟩
  obtain ⟨-, -, hw⟩ := decode_eq_ok_iff.1 hd
  have hr : s.Ready i := ⟨hi, hw, hs⟩
  exact ⟨fun hk => present_at_once hd hk hr, fun _ hk => present_accept hd hk hr⟩

end Sys2Proof.Machine
end

section
/-! SUPPORT. A reset, a waiting core, the end of a poll, and a write while a command is in flight: the statements of
spec/70_reset_and_hazards.md settled. -/

namespace Sys2Proof.Machine

/-! ### Reset and waiting (R270 to R272) -/

/-- Settles O4: the host's turn resets the core and leaves nothing in flight for the step to advance. -/
theorem resetAbandonsTheInFlightCommand : Obligations.ResetAbandonsTheInFlightCommand :=
  fun _ _ hh => step_tick (hostTurn_reset hh) fun _ => rfl

/-- Settles O5. -/
theorem idleCoreWaits : Obligations.IdleCoreWaits :=
  fun _ hi hh => (step_idle hi).trans (hostTurn_nil hh)

/-! ### The end of a poll (R93, R281) -/

/-- Settles O17: the poll leaves the core idle, so BUSY reads 0. -/
theorem pollLoopEnds : Obligations.PollLoopEnds := by
  intro s f rest hf hh
  have hidle : (applyWrites f.cmd f.snap { s with inflight := none }).inflight = none := applyWrites_inflight ..
  obtain ⟨hbusy, -⟩ := statusWord_fields (applyWrites f.cmd f.snap { s with inflight := none })
  exact ⟨_, run_poll hf hh, hidle, rfl, rfl, hbusy.trans (by rw [hidle]; rfl)⟩

/-! ### Writes while BUSY (R60, R277) -/

/-- R60, R277: a write while BUSY reaches the error record only; then the command in flight advances. -/
theorem step_write_busy {s t : State} {off : BitVec 10} {v : Word} {rest : List HostOp} (hb : s.inflight ≠ none)
    (hh : s.host = write32 off v :: rest) (h : step s = .next t) :
    ∃ err code, t = State.tick { s with host := rest, resp := .done, err := err, errCode := code } := by
  have ha : off.toNat % 4 = 0 := by
    by_contra hn
    obtain ⟨hfault, -⟩ := onlyBadAccessesGetABusError
    rw [(hfault s _ rest hh).2 (.inr hn)] at h
    cases h
  obtain ⟨-, hwrite⟩ := accessesWhileBusy s off rest hb ha
  obtain ⟨hstatus, hother⟩ := hwrite v hh
  by_cases ho : off = 0x004
  · rw [hstatus ho, State.writeStatus_eq] at h
    cases h
    exact ⟨_, _, rfl⟩
  · rw [hother ho, State.cmdError_eq] at h
    cases h
    exact ⟨_, _, rfl⟩

/-- The writes of a command do not read the error record, the in-flight command or the host's side. -/
theorem applyWrites_withControl (i : Instr) (src : Snapshot) (s : State) (err : Bool) (code : BitVec 4)
    (fl : Option InFlight) (host : List HostOp) (resp : BusResp) :
    applyWrites i src { s with err := err, errCode := code, inflight := fl, host := host, resp := resp } =
      { applyWrites i src s with err := err, errCode := code, inflight := fl, host := host, resp := resp } := by
  cases i <;> simp [applyWrites]

/-- Settles O23: the write leaves the registers, and the command in flight counts or applies its own writes. -/
theorem writesWhileBusyAreDropped : Obligations.WritesWhileBusyAreDropped := by
  intro s t f off v rest hf hh h
  obtain ⟨err, code, rfl⟩ := step_write_busy (by simp [hf]) hh h
  have hfu : State.inflight { s with host := rest, resp := .done, err := err, errCode := code } = some f := hf
  refine ⟨fun hk => ?_, fun h0 => ?_⟩
  · obtain ⟨k, hk⟩ := Nat.exists_eq_succ_of_ne_zero hk
    rw [tick_more hfu hk]
    exact ⟨rfl, rfl, rfl⟩
  · rw [tick_last hfu h0, applyWrites_withControl f.cmd f.snap s]
    exact ⟨rfl, rfl, rfl⟩

end Sys2Proof.Machine
end
